-- ==== Sys2Proof/Word.lean ====
section
/-! DEFINITION. The widths of the block's values (spec 00_scope.md R6, R9, R10; 30_encoding.md R44). -/

namespace Sys2Proof

/-- A packed colour word, 32 bits (R6 `WORD`). -/
abbrev Word := BitVec 32

/-- One 8-bit lane of a colour word, and one gamma-table entry (R6 `LANE`). -/
abbrev Lane := BitVec 8

/-- A 64-bit command word `w` on `cmd_data` (R44). -/
abbrev CmdWord := BitVec 64

/-- The frame store: `N_LOGICAL` = 14 colour words (R6, R13). -/
abbrev Frame := Vector Word 14

/-- The physical pixel buffer: `N_PHYS` = 24 colour words in chain order (R6, R16). -/
abbrev Buf := Vector Word 24

end Sys2Proof
end

