-- ==== Sys2Proof/Syntax.lean ====
section
/-! DEFINITION. The nine commands of the command port (spec 30_encoding.md R46, spec/opcode_table.json), and the
commands an assembler text is made of (R49, R51). -/

namespace Sys2Proof

/-- One constructor per row of spec/opcode_table.json, with the operand fields the command uses (R45, R46, R48):
`idx` is the 5-bit index field, `dat` the 32-bit data field. -/
inductive Instr where
  /-- FRAME_ZERO, opcode 0x1. -/
  | frameZero
  /-- FRAME_FILL dat, opcode 0x2. -/
  | frameFill (dat : Word)
  /-- FRAME_SET idx, dat, opcode 0x3. -/
  | frameSet (idx : BitVec 5) (dat : Word)
  /-- FRAME_GET idx, opcode 0x4. -/
  | frameGet (idx : BitVec 5)
  /-- RENDER, opcode 0x5. -/
  | render
  /-- CLEAR dat, opcode 0x6. -/
  | clear (dat : Word)
  /-- BUF_GET idx, opcode 0x7. -/
  | bufGet (idx : BitVec 5)
  /-- CORRECT dat, opcode 0x8. -/
  | correct (dat : Word)
  /-- STATUS_GET, opcode 0x9. -/
  | statusGet
deriving DecidableEq, Repr

/-- One command of an assembler text: the nine commands with operands as written (R49), and the five pseudo-commands
(R51). An operand is a number of any size here; WellFormed.lean says which ones the assembler accepts. -/
inductive AsmCommand where
  | frameZero
  | frameFill (dat : Nat)
  | frameSet (idx dat : Nat)
  | frameGet (idx : Nat)
  | render
  | clear (dat : Nat)
  | bufGet (idx : Nat)
  | correct (dat : Nat)
  | statusGet
  /-- BLANK. -/
  | blank
  /-- FRAME_FILL_RGB r, g, b. -/
  | frameFillRgb (r g b : Nat)
  /-- FRAME_SET_RGB i, r, g, b. -/
  | frameSetRgb (idx r g b : Nat)
  /-- CLEAR_RGB r, g, b. -/
  | clearRgb (r g b : Nat)
  /-- CORRECT8 v. -/
  | correct8 (v : Nat)
deriving DecidableEq, Repr

end Sys2Proof
end

