-- ==== Sys2Proof/Decode.lean ====
section
/-! DEFINITION. The command format, the opcode map, the decoder and the encoder (spec 30_encoding.md R44 to R49). -/

namespace Sys2Proof

/-- `op = w[3:0]` (R44). -/
def opField (w : CmdWord) : BitVec 4 := w.extractLsb' 0 4

/-- `idx = w[8:4]` (R44, R45). -/
def idxField (w : CmdWord) : BitVec 5 := w.extractLsb' 4 5

/-- `rsv = w[31:9]`, which must be 0 (R44). -/
def rsvField (w : CmdWord) : BitVec 23 := w.extractLsb' 9 23

/-- `dat = w[63:32]` (R44, R45). -/
def datField (w : CmdWord) : Word := w.extractLsb' 32 32

/-- Why a word decodes to no command (R47). Both give ILLEGAL_COMMAND (43_control.md R74). -/
inductive Illegal where
  /-- A 1 in `w[31:9]`. -/
  | reservedBits
  /-- An opcode of {0x0, 0xA, …, 0xF}. -/
  | reservedOpcode
deriving DecidableEq, Repr

/-- Decoding, total over all 2^64 words (R48). The reserved bits are looked at first, as R48 does. -/
def decode (w : CmdWord) : Except Illegal Instr :=
  if rsvField w ≠ 0#23 then .error .reservedBits
  else
    match opField w with
    | 0x1#4 => .ok .frameZero
    | 0x2#4 => .ok (.frameFill (datField w))
    | 0x3#4 => .ok (.frameSet (idxField w) (datField w))
    | 0x4#4 => .ok (.frameGet (idxField w))
    | 0x5#4 => .ok .render
    | 0x6#4 => .ok (.clear (datField w))
    | 0x7#4 => .ok (.bufGet (idxField w))
    | 0x8#4 => .ok (.correct (datField w))
    | 0x9#4 => .ok .statusGet
    | _ => .error .reservedOpcode

/-- The opcode of a command (R46). -/
def Instr.op : Instr → BitVec 4
  | .frameZero => 0x1#4
  | .frameFill _ => 0x2#4
  | .frameSet _ _ => 0x3#4
  | .frameGet _ => 0x4#4
  | .render => 0x5#4
  | .clear _ => 0x6#4
  | .bufGet _ => 0x7#4
  | .correct _ => 0x8#4
  | .statusGet => 0x9#4

/-- The index field the assembler writes; a command that does not use it gets 0 (R49). -/
def Instr.idx : Instr → BitVec 5
  | .frameSet idx _ => idx
  | .frameGet idx => idx
  | .bufGet idx => idx
  | .frameZero => 0
  | .frameFill _ => 0
  | .render => 0
  | .clear _ => 0
  | .correct _ => 0
  | .statusGet => 0

/-- The data field the assembler writes; a command that does not use it gets 0 (R49). -/
def Instr.dat : Instr → Word
  | .frameFill dat => dat
  | .frameSet _ dat => dat
  | .clear dat => dat
  | .correct dat => dat
  | .frameZero => 0
  | .frameGet _ => 0
  | .render => 0
  | .bufGet _ => 0
  | .statusGet => 0

/-- `w = (zext_64(dat) << 32) | (zext_64(idx) << 4) | op` (R49). -/
def packCommand (op : BitVec 4) (idx : BitVec 5) (dat : Word) : CmdWord :=
  (dat.setWidth 64 <<< 32) ||| (idx.setWidth 64 <<< 4) ||| op.setWidth 64

/-- The word of a command, its unused fields written as 0 (R49). -/
def encode (i : Instr) : CmdWord := packCommand i.op i.idx i.dat

/-- A row of the opcode map: a command is selected by its opcode together with `rsv = 0` (R46). -/
structure OpcodeRow where
  mnemonic : String
  op : BitVec 4
  /-- "uses `idx`" of R46's table. -/
  usesIdx : Bool
  /-- "uses `dat`" of R46's table. -/
  usesDat : Bool
deriving DecidableEq, Repr

/-- R46's mask: the opcode and the reserved bits. -/
def commandMask : CmdWord := 0x00000000FFFFFE0F#64

/-- The word a row's masked words equal: `0x000000000000000<op>` (R46). -/
def OpcodeRow.pattern (r : OpcodeRow) : CmdWord := r.op.setWidth 64

/-- The opcode map of R46, row by row. -/
def opcodeTable : List OpcodeRow := [
  ⟨"FRAME_ZERO", 0x1#4, false, false⟩,
  ⟨"FRAME_FILL", 0x2#4, false, true⟩,
  ⟨"FRAME_SET", 0x3#4, true, true⟩,
  ⟨"FRAME_GET", 0x4#4, true, false⟩,
  ⟨"RENDER", 0x5#4, false, false⟩,
  ⟨"CLEAR", 0x6#4, false, true⟩,
  ⟨"BUF_GET", 0x7#4, true, false⟩,
  ⟨"CORRECT", 0x8#4, false, true⟩,
  ⟨"STATUS_GET", 0x9#4, false, false⟩]

/-- The row's mnemonic (R46). -/
def Instr.mnemonic : Instr → String
  | .frameZero => "FRAME_ZERO"
  | .frameFill _ => "FRAME_FILL"
  | .frameSet _ _ => "FRAME_SET"
  | .frameGet _ => "FRAME_GET"
  | .render => "RENDER"
  | .clear _ => "CLEAR"
  | .bufGet _ => "BUF_GET"
  | .correct _ => "CORRECT"
  | .statusGet => "STATUS_GET"

/-- The command word made of the low `nbits` bits of `w`, every higher bit 0. Bit 0 of `cmd_data` is bit 0 of the
table's numbering: one 64-bit word, with no byte order to choose (R29, R44). -/
def tableWord (nbits w : Nat) : CmdWord := BitVec.ofNat 64 (w % 2 ^ nbits)

/-- What the decoder reads from an instruction whose bits are `w`. -/
def decodeTableWord (nbits w : Nat) : Option Instr := (decode (tableWord nbits w)).toOption

end Sys2Proof
end

