-- ==== Sys2Proof/Config.lean ====
section
/-! DEFINITION. What is fixed when the block is elaborated: `TOPOLOGY`, `GAMMA_TABLE` and the two `REMAP_TABLES`
(spec 00_scope.md R7, R8; 10_state.md R18, R19, R24; 92_eei_decisions.md D13, D14). They are no state of the block. -/

namespace Sys2Proof

/-- The parameters of the block together with the premises the spec puts on them: GT1 to GT4 of R7, RT1 to RT3 of R8.
(GT4 and RT3, that the tables are constant, and RT1, the range, hold by the types.)

The default values serve one purpose: with them Lean finds that the premises can be met, which `opaque Config.chip`
needs. They are no values of the hardware, and no meaning uses them. -/
structure Config where
  /-- `TOPOLOGY` in {0, 1} (R8, R19). -/
  topology : Fin 2
  /-- `GAMMA_TABLE`: 256 entries of 8 bits (R7). -/
  gammaTable : Lane → Lane := fun v => v
  /-- `REMAP_TABLES`: one table of 14 physical positions per topology (R8). -/
  remapTables : Fin 2 → Fin 14 → Fin 24 := fun _ i => i.castLE (by decide)
  /-- GT1. -/
  gamma_zero : gammaTable 0 = 0 := by rfl
  /-- GT2. -/
  gamma_max : gammaTable 255 = 255 := by rfl
  /-- GT3: monotonic non-decreasing, on unsigned values. -/
  gamma_mono : ∀ a b : Lane, a ≤ b → gammaTable a ≤ gammaTable b := by exact fun _ _ h => h
  /-- RT2: the entries of each table are distinct. -/
  remap_injective : ∀ (t : Fin 2) (i k : Fin 14), remapTables t i = remapTables t k → i = k := by
    intro t i k h; simpa [Fin.ext_iff] using h
deriving Inhabited

/-- The parameters this block was elaborated with. It has no body: nothing can be proved of it beyond the premises
(log 3; D13 and D14 mark both `OPEN`). -/
opaque Config.chip : Config

/-- `G(v) = GAMMA_TABLE[v]` (41_gamma.md R58). -/
def Config.G (c : Config) (v : Lane) : Lane := c.gammaTable v

/-- `M(i) = REMAP_TABLE[i]`, where `REMAP_TABLE = REMAP_TABLES[TOPOLOGY]` (R8). -/
def Config.M (c : Config) (i : Fin 14) : Fin 24 := c.remapTables c.topology i

/-- `j` is in `UNMAPPED`: no frame entry reaches it (R8). -/
abbrev Config.Unmapped (c : Config) (j : Fin 24) : Prop := ∀ i : Fin 14, c.M i ≠ j

end Sys2Proof
end

