-- ==== Sys2Proof/Machine/State.lean ====
section
/-! DEFINITION. The state of the block and of the agents on its ports, as plain data, the reasons a step can stop, and the
state right after reset (spec 10_state.md R13 to R25, 30_encoding.md R40 to R43, 60_exceptions.md R88,
70_reset_and_hazards.md R91). -/

namespace Sys2Proof.Machine

/-- Whether a stream carries corrected or raw words (R21). -/
inductive StreamMode where
  /-- `CORR`: RENDER. -/
  | corr
  /-- `RAW`: CLEAR. -/
  | raw
deriving DecidableEq, Repr

/-- The status codes a response can carry (R42). Code 3 is reserved and never produced, so it has no constructor
(log 14). -/
inductive Status where
  | ok
  | indexOutOfRange
  | illegalCommand
deriving DecidableEq, Repr

/-- The phase register (R21). -/
inductive Phase where
  /-- No command in flight. -/
  | idle
  /-- `STREAM(j, mode)`: sending pixel `j` of the current RENDER or CLEAR. -/
  | stream (j : Fin 24) (mode : StreamMode)
  /-- `BOUND`: sending the frame-boundary token. -/
  | bound
  /-- `RESP(s, d)`: presenting the response. -/
  | resp (s : Status) (d : Word)
deriving DecidableEq, Repr

/-- One transfer of the output stream (R43). -/
inductive Transfer where
  /-- `out_boundary = 0`, `out_data = w`. -/
  | pixel (w : Word)
  /-- `out_boundary = 1`, `out_data = 0`. -/
  | boundary
deriving DecidableEq, Repr

/-- One response: `rsp_status` and `rsp_data` (R42). -/
structure Response where
  status : Status
  data : Word
deriving DecidableEq, Repr

/-- A move of an agent outside the block (R88: the caller and the transmitter have their own steps; R91: reset). -/
inductive Move where
  /-- The caller raises `cmd_valid` with `cmd_data = w`. -/
  | presentCommand (w : CmdWord)
  /-- The caller raises `rsp_ready`, for one response. -/
  | acceptResponse
  /-- The transmitter raises `out_ready`, for one transfer. -/
  | acceptTransfer
  /-- `rst` is raised, for one rising edge of `clk`. -/
  | assertReset
deriving DecidableEq, Repr

/-- The block (`frame`, `buf`, `err`, `phase`), its input pins (`rst`, `cmd`, `rspReady`, `outReady`), and what the agents
outside it will do (`agenda`) and have seen (`sent`, `responses`). -/
structure State where
  /-- `FRAME[0..13]` (R13). -/
  frame : Frame
  /-- `BUF[0..23]`, raw words (R16). -/
  buf : Buf
  /-- `ERR`, sticky (R22). -/
  err : Bool
  /-- The phase register (R21). -/
  phase : Phase
  /-- The pin `rst` (R39, R40). -/
  rst : Bool
  /-- The pins `cmd_valid` and `cmd_data` (R40): none is `cmd_valid = 0`. -/
  cmd : Option CmdWord
  /-- The pin `rsp_ready` (R40). -/
  rspReady : Bool
  /-- The pin `out_ready` (R40). -/
  outReady : Bool
  /-- The coming moves of the agents outside, in the order they make them (R88; log 4). -/
  agenda : List Move
  /-- The transfers the transmitter has accepted, oldest first (log 10). -/
  sent : List Transfer
  /-- The responses the caller has accepted, oldest first (log 10). -/
  responses : List Response
deriving DecidableEq, Repr

/-- Why the machine stops. The three waits are the stuck states of 42_render.md R67 (log 7). -/
inductive Fault where
  /-- Raised by the step in IDLE when no command is presented and no agent will move again. Safe: the block waits. -/
  | waitingForCommand
  /-- Raised by the step in STREAM or BOUND when the transmitter will never raise `out_ready`. Safe: the block waits
  for ever (R67). -/
  | waitingForTransmitter
  /-- Raised by the step in RESP when the caller will never raise `rsp_ready`. Safe: the block waits for ever (R66). -/
  | waitingForCaller
  /-- Raised by `readResponse` on a recorded response whose status is 3; no step raises it
  (93_implementation_defined.md I14). Safe. -/
  | reservedStatus
deriving DecidableEq, Repr

/-- What the model gives no meaning to. -/
inductive Refusal where
  /-- Raised by an arm of `exec` for an instruction without a meaning; no arm does. Safe. -/
  | notModelled (mnemonic : String)
  /-- Raised by the caller's move that changes a command word still waiting to be accepted: 30_encoding.md R41 item 2
  forbids it, and the spec's rules hold only while the caller keeps to it (R94 item 3). No instruction raises it.
  Safe (log 11). -/
  | callerChangedCommand
deriving DecidableEq, Repr

/-- Right after reset: the values of R91 and R25 for the block; for the pins and the agents outside, nothing presented,
nothing ready and nothing to come (log 9). -/
def State.reset : State where
  frame := Vector.replicate 14 0
  buf := Vector.replicate 24 0
  err := false
  phase := .idle
  rst := false
  cmd := none
  rspReady := false
  outReady := false
  agenda := []
  sent := []
  responses := []

end Sys2Proof.Machine
end

