-- ==== Sys2Proof/Machine/Operands.lean ====
section
/-! DEFINITION. The operands of the commands: the index checks, and the lanes of a colour word (spec 00_scope.md R9, R10;
20_memory.md R28; 30_encoding.md R45, R50; 60_exceptions.md R78). -/

namespace Sys2Proof.Machine

/-- The logical index an `idx` field names, or none when `idx >= 14` on the unsigned field (R78). -/
def frameIndex (idx : BitVec 5) : Option (Fin 14) :=
  if h : idx.toNat < 14 then some ⟨idx.toNat, h⟩ else none

/-- The physical position an `idx` field names, or none when `idx >= 24` on the unsigned field (R78). -/
def bufIndex (idx : BitVec 5) : Option (Fin 24) :=
  if h : idx.toNat < 24 then some ⟨idx.toNat, h⟩ else none

/-- `lane(w, k) = w[8k+7 : 8k]` (R10). Lane 0 is R, 1 is G, 2 is B, 3 is unused; no rule tells them apart (R28). -/
def lane (w : Word) (k : Fin 4) : Lane := w.extractLsb' (8 * k.val) 8

/-- `pack4(l3, l2, l1, l0) = l3 ++ l2 ++ l1 ++ l0` (R10). -/
def pack4 (l3 l2 l1 l0 : Lane) : Word := l3 ++ l2 ++ l1 ++ l0

/-- `urgb(r, g, b) = (zext_32(b) << 16) | (zext_32(g) << 8) | zext_32(r)` (R50). -/
def urgb (r g b : Lane) : Word := (b.setWidth 32 <<< 16) ||| (g.setWidth 32 <<< 8) ||| r.setWidth 32

end Sys2Proof.Machine
end

