-- ==== Sys2Proof/Machine/Flags.lean ====
section
/-! DEFINITION. `ERR`, the only flag, and the status word made from it (spec 10_state.md R22, R23; 43_control.md R73).
No command computes a carry, zero or overflow flag (R22, R63). -/

namespace Sys2Proof.Machine

/-- `ERR <- e`. Errors set it, reset clears it, and nothing else writes it (R22). -/
def State.setErr (s : State) (e : Bool) : State := { s with err := e }

/-- STATUS: bit 0 is `ERR`, bit 1 is `TOPOLOGY`, bits [31:2] are 0: `zext_32(TOPOLOGY ++ ERR)` (R23, R73). -/
def statusWord (topology : Fin 2) (err : Bool) : Word :=
  (BitVec.ofNat 1 topology.val ++ BitVec.ofBool err).setWidth 32

end Sys2Proof.Machine
end

