-- ==== Sys2Proof/Machine/Ops.lean ====
section
/-! DEFINITION. The named operations every command is written with: reading and writing FRAME and BUF, responding, failing,
correcting a word, the remap and the start of a stream (spec 00_scope.md R11; 41_gamma.md R60; 42_render.md R65;
60_exceptions.md R80). -/

namespace Sys2Proof.Machine

/-- `FRAME[i]` (R11). -/
def State.readFrame (s : State) (i : Fin 14) : Word := s.frame[i]

/-- `FRAME[i] <- v`: a whole 32-bit entry (R11, R31). -/
def State.writeFrame (s : State) (i : Fin 14) (v : Word) : State := { s with frame := s.frame.set i v }

/-- `for i in 0..13: FRAME[i] <- v`, all at one edge (R32). -/
def State.fillFrame (s : State) (v : Word) : State := { s with frame := Vector.replicate 14 v }

/-- `BUF[j]` (R11). -/
def State.readBuf (s : State) (j : Fin 24) : Word := s.buf[j]

/-- All of BUF at once: a command's writes to it take effect together (R32). -/
def State.setBuf (s : State) (b : Buf) : State := { s with buf := b }

/-- `for j in 0..23: BUF[j] <- v`, all at one edge (R32). -/
def State.fillBuf (s : State) (v : Word) : State := s.setBuf (Vector.replicate 24 v)

/-- `phase <- p` (R21). -/
def State.setPhase (s : State) (p : Phase) : State := { s with phase := p }

/-- `respond(s, d)` sets `phase <- RESP(s, d)` (R53). -/
def State.respond (s : State) (st : Status) (d : Word) : State := s.setPhase (.resp st d)

/-- The two errors of the block (R77). -/
inductive BlockError where
  | indexOutOfRange
  | illegalCommand
deriving DecidableEq, Repr

/-- `code_of(X)` (R53, R77). -/
def BlockError.code : BlockError → Status
  | .indexOutOfRange => .indexOutOfRange
  | .illegalCommand => .illegalCommand

/-- Taking an error, the one operation for both: `ERR <- 1; phase <- RESP(code, 0)` and nothing else (R53, R80). Nothing
is saved and no vector is taken (R83); the offending `idx` or word is not recorded (R77). -/
def State.raiseError (s : State) (e : BlockError) : State := (s.setErr true).respond e.code 0

/-- Leaving an error, as every response: when the caller accepts it, `phase <- IDLE` and the next command is accepted as
usual (R66, R84). One acceptance uses up the caller's `rsp_ready` (log 5). -/
def State.acceptResponse (s : State) (st : Status) (d : Word) : State :=
  { s with phase := .idle, rspReady := false, responses := s.responses ++ [⟨st, d⟩] }

/-- `G4(w)`: each of the four lanes goes through the gamma table on its own, lane 3 too (R60). -/
def g4 (c : Config) (w : Word) : Word :=
  pack4 (c.G (lane w 3)) (c.G (lane w 2)) (c.G (lane w 1)) (c.G (lane w 0))

/-- The writes `BUF[M(i)] <- FRAME[i]` for the indices `i` of a list, in its order. -/
def remapAlong (c : Config) (frame : Frame) (order : List (Fin 14)) (buf : Buf) : Buf :=
  order.foldl (fun b i => b.set (c.M i) frame[i]) buf

/-- `remap(): for i in 0..13: BUF[M(i)] <- FRAME[i]` (R65). -/
def remap (c : Config) (frame : Frame) (buf : Buf) : Buf := remapAlong c frame (List.finRange 14) buf

/-- What a stream sends for a buffer entry: `G4(BUF[j])` when corrected, `BUF[j]` when raw (R66). -/
def streamWord (c : Config) (mode : StreamMode) (w : Word) : Word :=
  match mode with
  | .corr => g4 c w
  | .raw => w

/-- The first phase of a stream: `phase <- STREAM(0, mode)` (R66). -/
def State.startStream (s : State) (mode : StreamMode) : State := s.setPhase (.stream 0 mode)

end Sys2Proof.Machine
end

