-- ==== Sys2Proof/Machine/Control.lean ====
section
/-! DEFINITION. STATUS_GET and the illegal words (spec 43_control.md). -/

namespace Sys2Proof.Machine

/-- STATUS_GET: `ERR` is read and not cleared (R73). -/
def execStatusGet (s : State) : Host.Outcome State Fault Refusal :=
  .next (s.respond .ok (statusWord Config.chip.topology s.err))

/-- An illegal word, for either reason, is not executed: `raise IllegalCommand(w)` (R74, R79). -/
def rejectIllegal (s : State) : Host.Outcome State Fault Refusal :=
  .next (s.raiseError .illegalCommand)

end Sys2Proof.Machine
end

