-- ==== Sys2Proof/Machine/FrameStore.lean ====
section
/-! DEFINITION. The frame-store commands (spec 40_frame.md). A meaning runs when the block accepts the command (R53); the
step runs it in IDLE only (log 16). -/

namespace Sys2Proof.Machine

/-- FRAME_ZERO (R54). -/
def execFrameZero (s : State) : Host.Outcome State Fault Refusal :=
  .next ((s.fillFrame 0x00000000).respond .ok 0)

/-- FRAME_FILL (R55). -/
def execFrameFill (dat : Word) (s : State) : Host.Outcome State Fault Refusal :=
  .next ((s.fillFrame dat).respond .ok 0)

/-- FRAME_SET (R56). -/
def execFrameSet (idx : BitVec 5) (dat : Word) (s : State) : Host.Outcome State Fault Refusal :=
  match frameIndex idx with
  | none => .next (s.raiseError .indexOutOfRange)
  | some i => .next ((s.writeFrame i dat).respond .ok 0)

/-- FRAME_GET (R57). -/
def execFrameGet (idx : BitVec 5) (s : State) : Host.Outcome State Fault Refusal :=
  match frameIndex idx with
  | none => .next (s.raiseError .indexOutOfRange)
  | some i => .next (s.respond .ok (s.readFrame i))

end Sys2Proof.Machine
end

