-- ==== Sys2Proof/Machine/Gamma.lean ====
section
/-! DEFINITION. CORRECT, the command of the gamma corrector (spec 41_gamma.md). -/

namespace Sys2Proof.Machine

/-- CORRECT: `respond(OK, G4(dat))` (R64). -/
def execCorrect (dat : Word) (s : State) : Host.Outcome State Fault Refusal :=
  .next (s.respond .ok (g4 Config.chip dat))

end Sys2Proof.Machine
end

