-- ==== Sys2Proof/Machine/Render.lean ====
section
/-! DEFINITION. RENDER, CLEAR and BUF_GET (spec 42_render.md). RENDER and CLEAR do at acceptance what their rules do before
the first `emit_pixel`; the 25 transfers and the response are the phase machine's (Machine/Sequencer.lean). -/

namespace Sys2Proof.Machine

/-- RENDER: the remap, then a corrected stream (R65, R68). -/
def execRender (s : State) : Host.Outcome State Fault Refusal :=
  .next ((s.setBuf (remap Config.chip s.frame s.buf)).startStream .corr)

/-- CLEAR: every buffer entry becomes `dat`, then a raw stream (R71). -/
def execClear (dat : Word) (s : State) : Host.Outcome State Fault Refusal :=
  .next ((s.fillBuf dat).startStream .raw)

/-- BUF_GET (R72). -/
def execBufGet (idx : BitVec 5) (s : State) : Host.Outcome State Fault Refusal :=
  match bufIndex idx with
  | none => .next (s.raiseError .indexOutOfRange)
  | some j => .next (s.respond .ok (s.readBuf j))

end Sys2Proof.Machine
end

