-- ==== Sys2Proof/Machine/Dispatch.lean ====
section
/-! DEFINITION. The meaning of each command (spec 30_encoding.md R46), one arm each. -/

namespace Sys2Proof.Machine

/-- The rule of a command, run at its acceptance (40_frame.md R53). -/
def exec (i : Instr) (s : State) : Host.Outcome State Fault Refusal :=
  match i with
  | .frameZero => Sys2Proof.Machine.execFrameZero s
  | .frameFill dat => Sys2Proof.Machine.execFrameFill dat s
  | .frameSet idx dat => Sys2Proof.Machine.execFrameSet idx dat s
  | .frameGet idx => Sys2Proof.Machine.execFrameGet idx s
  | .render => Sys2Proof.Machine.execRender s
  | .clear dat => Sys2Proof.Machine.execClear dat s
  | .bufGet idx => Sys2Proof.Machine.execBufGet idx s
  | .correct dat => Sys2Proof.Machine.execCorrect dat s
  | .statusGet => Sys2Proof.Machine.execStatusGet s

end Sys2Proof.Machine
end

