-- ==== Sys2Proof/Machine/Ports.lean ====
section
/-! DEFINITION. The output ports, as functions of the state (spec 30_encoding.md R40 to R43; 42_render.md R66). A payload
has no value while its valid is 0: the port is then none (R41 item 4; log 12). -/

namespace Sys2Proof.Machine

/-- `cmd_ready`: 1 exactly when `phase = IDLE` and `rst = 0` (R40). -/
def cmdReady (s : State) : Bool := !s.rst && s.phase = .idle

/-- `out_valid`, `out_boundary` and `out_data`: none is `out_valid = 0` (R40, R66). -/
def outPort (c : Config) (s : State) : Option Transfer :=
  if s.rst then none
  else
    match s.phase with
    | .idle => none
    | .stream j mode => some (.pixel (streamWord c mode (s.readBuf j)))
    | .bound => some .boundary
    | .resp _ _ => none

/-- `rsp_valid`, `rsp_status` and `rsp_data`: none is `rsp_valid = 0` (R40, R66). -/
def rspPort (s : State) : Option Response :=
  if s.rst then none
  else
    match s.phase with
    | .idle => none
    | .stream _ _ => none
    | .bound => none
    | .resp st d => some ⟨st, d⟩

/-- `rsp_status` of a status (R42). -/
def Status.bits : Status → BitVec 2
  | .ok => 0
  | .indexOutOfRange => 1
  | .illegalCommand => 2

/-- `out_boundary` of a transfer (R43). -/
def Transfer.boundaryBit : Transfer → BitVec 1
  | .pixel _ => 0
  | .boundary => 1

/-- `out_data` of a transfer: the word unshifted, or 0 with a boundary (R43). -/
def Transfer.data : Transfer → Word
  | .pixel w => w
  | .boundary => 0

/-- Reading a recorded response. Status 3 is reserved and never produced; a model that meets it must fault (R42;
93_implementation_defined.md I14). -/
def readResponse (status : BitVec 2) (data : Word) : Host.Outcome Response Fault Refusal :=
  match status with
  | 0#2 => .next ⟨.ok, data⟩
  | 1#2 => .next ⟨.indexOutOfRange, data⟩
  | 2#2 => .next ⟨.illegalCommand, data⟩
  | _ => .fault .reservedStatus

end Sys2Proof.Machine
end

