-- ==== Sys2Proof/Machine/Sequencer.lean ====
section
/-! DEFINITION. The phase machine of the pixel sequencer and the command controller, reset, and the moves of the agents
outside (spec 42_render.md R66, R67; 70_reset_and_hazards.md R91; 60_exceptions.md R88). -/

namespace Sys2Proof.Machine

/-- The command transfer (R41 item 1). That `cmd_valid` is low after it, until the caller presents a command again, is the
model's choice: R41 item 2 binds the caller until the transfer only (log 20, DESIGN CHOICE). -/
def State.takeCommand (s : State) : State := { s with cmd := none }

/-- An accepted word is decoded and its rule is run (R66, IDLE). -/
def runWord (w : CmdWord) (s : State) : Host.Outcome State Fault Refusal :=
  match decode w with
  | .error _ => rejectIllegal s
  | .ok i => exec i s

/-- A transfer on the output stream: the transmitter gets `x`, and its `out_ready` is used up (R43; log 5). -/
def State.send (s : State) (x : Transfer) : State := { s with outReady := false, sent := s.sent ++ [x] }

/-- The phase after pixel `j`: `(j < 23) ? STREAM(j + 1, mode) : BOUND` (R66). -/
def phaseAfterPixel (j : Fin 24) (mode : StreamMode) : Phase :=
  if h : j.val < 23 then .stream ⟨j.val + 1, by omega⟩ mode else .bound

/-- A pixel transfer (R66, STREAM). -/
def pixelTransfer (c : Config) (j : Fin 24) (mode : StreamMode) (s : State) : State :=
  (s.send (.pixel (streamWord c mode (s.readBuf j)))).setPhase (phaseAfterPixel j mode)

/-- A boundary transfer (R66, BOUND). -/
def boundaryTransfer (s : State) : State := (s.send .boundary).respond .ok 0

/-- A rising edge of `clk` with `rst = 1` (R91): no transfer happens, and what the agents outside hold stays (R93; log 8). -/
def resetEdge (s : State) : State :=
  (((s.fillFrame 0x00000000).fillBuf 0x00000000).setErr false).setPhase .idle |> fun t => { t with rst := false }

/-- What the block waits for when no transfer can happen (R66, R67). -/
def waitFault : Phase → Fault
  | .idle => .waitingForCommand
  | .stream _ _ => .waitingForTransmitter
  | .bound => .waitingForTransmitter
  | .resp _ _ => .waitingForCaller

/-- A move of an agent outside changes its own pin (R40, R88). A command word waiting to be accepted stays as it is:
presenting it again changes nothing, and presenting another one breaks the handshake (R41 item 2; log 11). -/
def agentMove (m : Move) (s : State) : Host.Outcome State Fault Refusal :=
  match m with
  | .presentCommand w =>
    match s.cmd with
    | none => .next { s with cmd := some w }
    | some v => if v = w then .next s else .refused .callerChangedCommand
  | .acceptResponse => .next { s with rspReady := true }
  | .acceptTransfer => .next { s with outReady := true }
  | .assertReset => .next { s with rst := true }

/-- No transfer can happen: the block takes no step (R66), the next agent makes its move, and when none is left the wait
is a stuck state (R67; log 7). -/
def agentsStep (s : State) : Host.Outcome State Fault Refusal :=
  match s.agenda with
  | [] => .fault (waitFault s.phase)
  | m :: rest => agentMove m { s with agenda := rest }

/-- One step of the machine: the reset edge if `rst = 1` (R91), else the transfer the pins allow in this phase (R66), else
a move of the next agent (R88; log 6). -/
def machineStep (s : State) : Host.Outcome State Fault Refusal :=
  if s.rst then .next (resetEdge s)
  else
    match s.phase with
    | .idle =>
      match s.cmd with
      | some w => runWord w s.takeCommand
      | none => agentsStep s
    | .stream j mode => if s.outReady then .next (pixelTransfer Config.chip j mode s) else agentsStep s
    | .bound => if s.outReady then .next (boundaryTransfer s) else agentsStep s
    | .resp st d => if s.rspReady then .next (s.acceptResponse st d) else agentsStep s

end Sys2Proof.Machine
end

