-- ==== Sys2Proof/Machine/Step.lean ====
section
/-! DEFINITION. The step, and where it takes its next instruction from: the command port (spec 10_state.md R20,
42_render.md R66). -/

namespace Sys2Proof.Machine

/-- One step: Machine/Sequencer.lean says what it is. -/
def step : State → Host.Outcome State Fault Refusal := machineStep

/-- `s` with the caller presenting the table's word to the block, so that the very next step accepts it: `rst = 0`,
`phase = IDLE`, and the word on the command port (R40, R66; log 13). -/
def State.withFetchWord (s : State) (nbits w : Nat) : State :=
  { s with rst := false, phase := .idle, cmd := some (tableWord nbits w) }

end Sys2Proof.Machine
end

