-- ==== Sys2Proof/WellFormed.lean ====
section
/-! DEFINITION. Which commands of an assembler text are well-formed: every operand lies in its field (spec
30_encoding.md R49, R50, R51). A term of `Instr` needs no check of its own: its operand types are the fields of R44, and
an index outside the command's range is a legal command that fails when it runs (R47, R49). -/

namespace Sys2Proof

/-- `<idx>` is an integer 0..31 (R49). -/
def fitsIdx (n : Nat) : Bool := n < 32

/-- `<dat>` is an integer 0..0xFFFFFFFF (R49). -/
def fitsDat (n : Nat) : Bool := n < 0x100000000

/-- A channel `r`, `g` or `b`, and the operand of CORRECT8, is in 0..255 (R50, R51). -/
def fitsChannel (n : Nat) : Bool := n < 256

/-- The assembler accepts the command: no operand is outside its field (R49, R50, R51). -/
def AsmCommand.wellFormed : AsmCommand → Bool
  | .frameZero => true
  | .frameFill dat => fitsDat dat
  | .frameSet idx dat => fitsIdx idx && fitsDat dat
  | .frameGet idx => fitsIdx idx
  | .render => true
  | .clear dat => fitsDat dat
  | .bufGet idx => fitsIdx idx
  | .correct dat => fitsDat dat
  | .statusGet => true
  | .blank => true
  | .frameFillRgb r g b => fitsChannel r && fitsChannel g && fitsChannel b
  | .frameSetRgb idx r g b => fitsIdx idx && fitsChannel r && fitsChannel g && fitsChannel b
  | .clearRgb r g b => fitsChannel r && fitsChannel g && fitsChannel b
  | .correct8 v => fitsChannel v

end Sys2Proof
end

