-- ==== Sys2Proof/Machine/Assembler.lean ====
section
/-! DEFINITION. The assembler: its commands, the pseudo-commands, and the text form (spec 30_encoding.md R49, R50, R51).
What R49 to R51 leave open of the text (blanks, empty lines, digits, the form of an integer) is log 15. -/

namespace Sys2Proof.Machine

/-- The command an assembler command stands for; a pseudo-command is its expansion (R51). The numbers are meant to fit
their fields: `assemble` checks that. -/
def expandCommand : AsmCommand → Instr
  | .frameZero => .frameZero
  | .frameFill dat => .frameFill (BitVec.ofNat 32 dat)
  | .frameSet idx dat => .frameSet (BitVec.ofNat 5 idx) (BitVec.ofNat 32 dat)
  | .frameGet idx => .frameGet (BitVec.ofNat 5 idx)
  | .render => .render
  | .clear dat => .clear (BitVec.ofNat 32 dat)
  | .bufGet idx => .bufGet (BitVec.ofNat 5 idx)
  | .correct dat => .correct (BitVec.ofNat 32 dat)
  | .statusGet => .statusGet
  | .blank => .clear 0x00000000
  | .frameFillRgb r g b => .frameFill (urgb (BitVec.ofNat 8 r) (BitVec.ofNat 8 g) (BitVec.ofNat 8 b))
  | .frameSetRgb idx r g b =>
    .frameSet (BitVec.ofNat 5 idx) (urgb (BitVec.ofNat 8 r) (BitVec.ofNat 8 g) (BitVec.ofNat 8 b))
  | .clearRgb r g b => .clear (urgb (BitVec.ofNat 8 r) (BitVec.ofNat 8 g) (BitVec.ofNat 8 b))
  | .correct8 v => .correct ((BitVec.ofNat 8 v).setWidth 32)

/-- The word the assembler emits, or none where it refuses an operand outside its field (R49, R50). -/
def assembleCommand (a : AsmCommand) : Option CmdWord :=
  if a.wellFormed then some (encode (expandCommand a)) else none

/-- Why the assembler refuses a line. -/
inductive AsmError where
  /-- The line starts with no mnemonic or pseudo-command of R49 and R51. -/
  | unknownMnemonic
  /-- An operand is no integer, or there are not as many as the command takes. -/
  | badOperands
  /-- An operand is outside its field (R49, R50). -/
  | outsideField
deriving DecidableEq, Repr

/-- A blank between the parts of a line (log 15). -/
def isBlank (ch : Char) : Bool := ch = ' ' || ch = '\t' || ch = '\r'

/-- A text without the blanks at its two ends. -/
def trimBlanks (cs : List Char) : List Char := ((cs.dropWhile isBlank).reverse.dropWhile isBlank).reverse

/-- A text cut at every `sep`. -/
def splitAtChar (sep : Char) : List Char → List (List Char)
  | [] => [[]]
  | ch :: cs =>
    match splitAtChar sep cs with
    | [] => [[ch]]
    | part :: parts => if ch = sep then [] :: part :: parts else (ch :: part) :: parts

/-- The value of a digit below `base`; the digits of a `0x` integer above 9 are letters of either case (log 15). -/
def digitValue (base : Nat) (ch : Char) : Option Nat :=
  let n := ch.toNat
  let v :=
    if 48 ≤ n ∧ n ≤ 57 then n - 48
    else if 97 ≤ n ∧ n ≤ 102 then n - 87
    else if 65 ≤ n ∧ n ≤ 70 then n - 55
    else base
  if v < base then some v else none

/-- The digits read after a value, or none where one is no digit. -/
def readDigits (base : Nat) : List Char → Nat → Option Nat
  | [], acc => some acc
  | ch :: cs, acc =>
    match digitValue base ch with
    | some v => readDigits base cs (acc * base + v)
    | none => none

/-- A decimal or `0x` integer: the form R49 gives for `<idx>`. -/
def readInteger : List Char → Option Nat
  | [] => none
  | '0' :: 'x' :: ch :: cs => readDigits 16 (ch :: cs) 0
  | cs => readDigits 10 cs 0

/-- The mnemonics and pseudo-commands with their operands (R49, R51). -/
def asmForms : List (String × (List Nat → Option AsmCommand)) := [
  ("FRAME_ZERO", fun | [] => some .frameZero | _ => none),
  ("FRAME_FILL", fun | [dat] => some (.frameFill dat) | _ => none),
  ("FRAME_SET", fun | [idx, dat] => some (.frameSet idx dat) | _ => none),
  ("FRAME_GET", fun | [idx] => some (.frameGet idx) | _ => none),
  ("RENDER", fun | [] => some .render | _ => none),
  ("CLEAR", fun | [dat] => some (.clear dat) | _ => none),
  ("BUF_GET", fun | [idx] => some (.bufGet idx) | _ => none),
  ("CORRECT", fun | [dat] => some (.correct dat) | _ => none),
  ("STATUS_GET", fun | [] => some .statusGet | _ => none),
  ("BLANK", fun | [] => some .blank | _ => none),
  ("FRAME_FILL_RGB", fun | [r, g, b] => some (.frameFillRgb r g b) | _ => none),
  ("FRAME_SET_RGB", fun | [idx, r, g, b] => some (.frameSetRgb idx r g b) | _ => none),
  ("CLEAR_RGB", fun | [r, g, b] => some (.clearRgb r g b) | _ => none),
  ("CORRECT8", fun | [v] => some (.correct8 v) | _ => none)]

/-- The operands of a line, separated by commas (R49). That every operand may be written in decimal or with `0x` is the
model's choice for `<dat>` and for the pseudo-commands' `r`, `g`, `b`, `i` and `v`: R49 says so of `<idx>` only, and R50 and
R51 give ranges (log 15, DESIGN CHOICE). -/
def readOperands (cs : List Char) : Option (List Nat) :=
  match trimBlanks cs with
  | [] => some []
  | text => (splitAtChar ',' text).mapM fun part => readInteger (trimBlanks part)

/-- The command a line holds: its mnemonic followed by its operands; nothing on a comment line, which starts with `;`
(R49). -/
def readLine (line : List Char) : Except AsmError (Option AsmCommand) :=
  match trimBlanks (line.takeWhile (· ≠ ';')) with
  | [] => .ok none
  | text =>
    match asmForms.find? fun form => form.1.toList = text.takeWhile (!isBlank ·) with
    | none => .error .unknownMnemonic
    | some form =>
      match (readOperands (text.dropWhile (!isBlank ·))).bind form.2 with
      | none => .error .badOperands
      | some a => .ok (some a)

/-- The word a line is assembled to, if it holds a command. -/
def assembleLine (line : List Char) : Except AsmError (Option CmdWord) :=
  match readLine line with
  | .error e => .error e
  | .ok none => .ok none
  | .ok (some a) =>
    match assembleCommand a with
    | none => .error .outsideField
    | some w => .ok (some w)

/-- The words of lines, in order; the first line that is refused refuses the text. -/
def assembleLines : List (List Char) → Except AsmError (List CmdWord)
  | [] => .ok []
  | line :: lines =>
    match assembleLine line, assembleLines lines with
    | .error e, _ => .error e
    | .ok _, .error e => .error e
    | .ok none, .ok ws => .ok ws
    | .ok (some w), .ok ws => .ok (w :: ws)

/-- The words of a text, line by line. -/
def assembleText (text : List Char) : Except AsmError (List CmdWord) := assembleLines (splitAtChar '\n' text)

end Sys2Proof.Machine
end

