-- ==== Sys2Proof/Safety.lean ====
section
/-! DEFINITION. What the claims speak of: the transfers of a stream, what a transfer and a wait are, runs, what two states
have in common, and the invariant of the phase machine. -/

namespace Sys2Proof.Machine

/-- The 24 pixel transfers of a stream over `buf`, in physical order (20_memory.md R35). -/
def pixelTransfers (c : Config) (mode : StreamMode) (buf : Buf) : List Transfer :=
  (List.finRange 24).map fun j => .pixel (streamWord c mode buf[j])

/-- `k` steps, stopping at the first fault or refusal. -/
def run : Nat → State → Host.Outcome State Fault Refusal
  | 0, s => .next s
  | k + 1, s =>
    match step s with
    | .next t => run k t
    | .fault f => .fault f
    | .refused r => .refused r

/-- A channel of the block has its valid and its ready at 1: a transfer happens at this edge if `rst` is 0 (30_encoding.md
R41 item 1). -/
def transferEnabled (s : State) : Bool :=
  match s.phase with
  | .idle => s.cmd.isSome
  | .stream _ _ => s.outReady
  | .bound => s.outReady
  | .resp _ _ => s.rspReady

/-- The block's own state is the same in both. -/
structure SameBlock (s t : State) : Prop where
  frame : t.frame = s.frame
  buf : t.buf = s.buf
  err : t.err = s.err
  phase : t.phase = s.phase

/-- The pins, and what the agents outside will do and have seen, are the same in both. -/
structure SameOutside (s t : State) : Prop where
  rst : t.rst = s.rst
  cmd : t.cmd = s.cmd
  rspReady : t.rspReady = s.rspReady
  outReady : t.outReady = s.outReady
  agenda : t.agenda = s.agenda
  sent : t.sent = s.sent
  responses : t.responses = s.responses

/-- What an error does at acceptance, and that it does nothing else (60_exceptions.md R80): `ERR <- 1`,
`phase <- RESP(code, 0)`. -/
structure FailedWith (code : Status) (s t : State) : Prop where
  err : t.err = true
  phase : t.phase = .resp code 0
  frame : t.frame = s.frame
  buf : t.buf = s.buf
  outside : SameOutside s t

/-- The assembler refuses `a` unless `fits`, and then emits the word with these fields, `w[31:9]` being 0:
`w = (zext_64(dat) << 32) | (zext_64(idx) << 4) | op` (30_encoding.md R44, R49). -/
def AssemblesExactlyWhen (a : AsmCommand) (fits : Prop) (op idx dat : Nat) : Prop :=
  (fits → ∃ w, assembleCommand a = some w ∧ w.toNat = dat * 2 ^ 32 + idx * 2 ^ 4 + op ∧
    (opField w).toNat = op ∧ (idxField w).toNat = idx ∧ rsvField w = 0 ∧ (datField w).toNat = dat) ∧
  (¬ fits → assembleCommand a = none)

/-- An opcode no command has (30_encoding.md R47). -/
def reservedOpcodes : List (BitVec 4) := [0x0#4, 0xA#4, 0xB#4, 0xC#4, 0xD#4, 0xE#4, 0xF#4]

/-- The command the block accepts in this state, if its next step is a command transfer (42_render.md R66). -/
def acceptedCommand (s : State) : Option Instr :=
  if s.rst then none
  else
    match s.phase, s.cmd with
    | .idle, some w => (decode w).toOption
    | _, _ => none

/-- The colour the stale slots hold after the next step, given the colour `v` they hold now: that of the last CLEAR since
the last reset, or 0 (10_state.md R17). -/
def staleColourAfter (s : State) (v : Word) : Word :=
  if s.rst then 0
  else
    match acceptedCommand s with
    | some (.clear dat) => dat
    | _ => v

/-- What every step keeps. While a stream is under way the transmitter has exactly the words sent so far, the buffer still
holds what the command put there, and an error response goes with `ERR` and data 0. -/
structure Inv (s : State) : Prop where
  /-- In `STREAM(j, mode)` the last `j` transfers were the words of positions 0..j-1 (R35, R66). -/
  pixelsSent : ∀ j mode, s.phase = .stream j mode →
    (pixelTransfers Config.chip mode s.buf).take j.val <:+ s.sent
  /-- In `BOUND` the last 24 transfers were the words of all positions, of one kind of stream (R35, R66). -/
  allPixelsSent : s.phase = .bound → ∃ mode, pixelTransfers Config.chip mode s.buf <:+ s.sent
  /-- During a corrected stream the buffer holds the frame at the mapped positions (R65, R97). -/
  remapHolds : ∀ j, s.phase = .stream j .corr → ∀ i : Fin 14, s.buf[Config.chip.M i] = s.frame[i]
  /-- During a raw stream the buffer holds one colour everywhere (R71, R97). -/
  oneColour : ∀ j, s.phase = .stream j .raw → ∀ i k : Fin 24, s.buf[i] = s.buf[k]
  /-- A response that is not OK has data 0 and goes with `ERR = 1` (R22, R42, R80). -/
  errorResponse : ∀ st d, s.phase = .resp st d → st ≠ .ok → s.err = true ∧ d = 0

end Sys2Proof.Machine
end

