-- ==== Sys2Proof/Certificates/Slice0/Obligations.lean ====
section
/-! DEFINITION. The statements for the provers. Each docstring says which rule of the spec it formalises, or, where the
model's own form is part of it, which log entry. -/

open Sys2Proof Sys2Proof.Machine

/-! ### Encoding (30_encoding.md) -/

/-- R44, R46, R48, R49: decoding the word of any command gives the command back, with every operand at every value. -/
def Obligations.DecodeOfEncodeIsTheCommand : Prop :=
  ∀ i : Instr, decode (encode i) = .ok i

/-- R45, R46, R49: encoding a decoded command gives back the opcode, the reserved bits and every field the command uses,
and writes the fields it does not use as 0. -/
def Obligations.EncodeOfDecodeKeepsTheUsedFields : Prop :=
  ∀ (w : CmdWord) (i : Instr), decode w = .ok i →
    opField (encode i) = opField w ∧ rsvField (encode i) = rsvField w ∧
    ∀ r ∈ opcodeTable, r.op = opField w →
      idxField (encode i) = (if r.usesIdx then idxField w else 0) ∧
      datField (encode i) = (if r.usesDat then datField w else 0)

/-- R46: a word decodes to a command of a row exactly when its masked bits are the row's pattern, and then the operands
are the fields the row uses. -/
def Obligations.CommandsAreSelectedByOpcodeAndReservedBits : Prop :=
  (∀ w : CmdWord, ∀ r ∈ opcodeTable, w &&& commandMask = r.pattern →
    ∃ i, decode w = .ok i ∧ i.mnemonic = r.mnemonic ∧
      i.idx = (if r.usesIdx then idxField w else 0) ∧ i.dat = (if r.usesDat then datField w else 0)) ∧
  (∀ (w : CmdWord) (i : Instr), decode w = .ok i →
    ∃ r ∈ opcodeTable, i.mnemonic = r.mnemonic ∧ w &&& commandMask = r.pattern)

/-- R45: a command that does not use a field ignores it, so two words that agree on the rest decode alike. -/
def Obligations.UnusedFieldsAreIgnored : Prop :=
  ∀ w w' : CmdWord, opField w' = opField w → rsvField w' = rsvField w →
    (∀ r ∈ opcodeTable, r.op = opField w →
      (r.usesIdx = true → idxField w' = idxField w) ∧ (r.usesDat = true → datField w' = datField w)) →
    decode w' = decode w

/-- R47: the illegal words are those with a reserved opcode and those with a 1 in `w[31:9]`; an index of any value is
legal to decode. -/
def Obligations.IllegalWordsAreTheReservedOnes : Prop :=
  ∀ w : CmdWord, (∃ e, decode w = .error e) ↔ (opField w ∈ reservedOpcodes ∨ rsvField w ≠ 0)

/-- R52: the table of encodings, from the text to the word, and from the word back to the command. -/
def Obligations.SampleEncodings : Prop :=
  assembleLine "FRAME_ZERO".toList = .ok (some 0x0000000000000001#64) ∧
  assembleLine "FRAME_FILL 0x00FFFFFF".toList = .ok (some 0x00FFFFFF00000002#64) ∧
  assembleLine "FRAME_SET 13, 0x000A0A0A".toList = .ok (some 0x000A0A0A000000D3#64) ∧
  assembleLine "FRAME_SET 14, 0x000A0A0A".toList = .ok (some 0x000A0A0A000000E3#64) ∧
  assembleLine "FRAME_GET 0".toList = .ok (some 0x0000000000000004#64) ∧
  assembleLine "RENDER".toList = .ok (some 0x0000000000000005#64) ∧
  assembleLine "CLEAR 0x00000000".toList = .ok (some 0x0000000000000006#64) ∧
  assembleLine "BLANK".toList = .ok (some 0x0000000000000006#64) ∧
  assembleLine "BUF_GET 23".toList = .ok (some 0x0000000000000177#64) ∧
  assembleLine "CORRECT 0xFF00FF00".toList = .ok (some 0xFF00FF0000000008#64) ∧
  assembleLine "STATUS_GET".toList = .ok (some 0x0000000000000009#64) ∧
  decode 0x0000000000000001#64 = .ok .frameZero ∧
  decode 0x00FFFFFF00000002#64 = .ok (.frameFill 0x00FFFFFF#32) ∧
  decode 0x000A0A0A000000D3#64 = .ok (.frameSet 13 0x000A0A0A#32) ∧
  decode 0x000A0A0A000000E3#64 = .ok (.frameSet 14 0x000A0A0A#32) ∧
  decode 0x0000000000000004#64 = .ok (.frameGet 0) ∧
  decode 0x0000000000000005#64 = .ok .render ∧
  decode 0x0000000000000006#64 = .ok (.clear 0x00000000#32) ∧
  decode 0x0000000000000177#64 = .ok (.bufGet 23) ∧
  decode 0xFF00FF0000000008#64 = .ok (.correct 0xFF00FF00#32) ∧
  decode 0x0000000000000009#64 = .ok .statusGet ∧
  decode 0x0000000000000205#64 = .error .reservedBits

/-- R49, R50, R51: the assembler refuses a command exactly when an `idx` is 32 or more, a `dat` is 0x100000000 or more, or
a channel is 256 or more; an index outside the command's range is no ground. The word it emits has these fields, and decodes
to the command it stands for. -/
def Obligations.AssemblerRefusesOnlyOperandsOutsideTheirField : Prop :=
  (∀ idx dat r g b : Nat,
    AssemblesExactlyWhen .frameZero True 0x1 0 0 ∧
    AssemblesExactlyWhen (.frameFill dat) (dat < 0x100000000) 0x2 0 dat ∧
    AssemblesExactlyWhen (.frameSet idx dat) (idx < 32 ∧ dat < 0x100000000) 0x3 idx dat ∧
    AssemblesExactlyWhen (.frameGet idx) (idx < 32) 0x4 idx 0 ∧
    AssemblesExactlyWhen .render True 0x5 0 0 ∧
    AssemblesExactlyWhen (.clear dat) (dat < 0x100000000) 0x6 0 dat ∧
    AssemblesExactlyWhen (.bufGet idx) (idx < 32) 0x7 idx 0 ∧
    AssemblesExactlyWhen (.correct dat) (dat < 0x100000000) 0x8 0 dat ∧
    AssemblesExactlyWhen .statusGet True 0x9 0 0 ∧
    AssemblesExactlyWhen .blank True 0x6 0 0 ∧
    AssemblesExactlyWhen (.frameFillRgb r g b) (r < 256 ∧ g < 256 ∧ b < 256) 0x2 0 (65536 * b + 256 * g + r) ∧
    AssemblesExactlyWhen (.frameSetRgb idx r g b) (idx < 32 ∧ r < 256 ∧ g < 256 ∧ b < 256) 0x3 idx
      (65536 * b + 256 * g + r) ∧
    AssemblesExactlyWhen (.clearRgb r g b) (r < 256 ∧ g < 256 ∧ b < 256) 0x6 0 (65536 * b + 256 * g + r) ∧
    AssemblesExactlyWhen (.correct8 r) (r < 256) 0x8 0 r) ∧
  ∀ (a : AsmCommand) (w : CmdWord), assembleCommand a = some w → decode w = .ok (expandCommand a)

/-- R10, R50: `urgb` by shifts is `pack4(0, b, g, r)`, and its lanes are r, g, b and 0. -/
def Obligations.UrgbPacksTheThreeChannels : Prop :=
  ∀ r g b : Lane, urgb r g b = pack4 0 b g r ∧
    lane (urgb r g b) 0 = r ∧ lane (urgb r g b) 1 = g ∧ lane (urgb r g b) 2 = b ∧ lane (urgb r g b) 3 = 0

/-- R51: every pseudo-command whose operands fit assembles to the word of its expansion. -/
def Obligations.PseudoCommandsExpand : Prop :=
  ∀ idx r g b : Nat, idx < 32 → r < 256 → g < 256 → b < 256 →
    ∃ w1 w2 w3 w4 w5 : CmdWord,
      (assembleCommand .blank = some w1 ∧ assembleCommand (.clear 0) = some w1) ∧
      (assembleCommand (.frameFillRgb r g b) = some w2 ∧
        assembleCommand (.frameFill (65536 * b + 256 * g + r)) = some w2) ∧
      (assembleCommand (.frameSetRgb idx r g b) = some w3 ∧
        assembleCommand (.frameSet idx (65536 * b + 256 * g + r)) = some w3) ∧
      (assembleCommand (.clearRgb r g b) = some w4 ∧
        assembleCommand (.clear (65536 * b + 256 * g + r)) = some w4) ∧
      (assembleCommand (.correct8 r) = some w5 ∧ assembleCommand (.correct r) = some w5)

/-! ### The phase machine (42_render.md R66) and the handshake (30_encoding.md R41) -/

/-- R53, R66: in IDLE with a command presented, the step takes the word off the port and runs the rule of the command the
word decodes to. (That the port is empty after the acceptance is the model's choice, log 20.) -/
def Obligations.StepRunsTheDecodedCommand : Prop :=
  ∀ (s : State) (w : CmdWord) (i : Instr), s.rst = false → s.phase = .idle → s.cmd = some w → decode w = .ok i →
    step s = exec i { s with cmd := none }

/-- R74: an illegal word, for either reason, sets `ERR`, is answered (ILLEGAL_COMMAND, 0), and does nothing else: no
store, no transfer. (That the port is empty after the acceptance is the model's choice, log 20.) -/
def Obligations.IllegalWordIsAnsweredAndDoesNothingElse : Prop :=
  ∀ (s : State) (w : CmdWord), s.rst = false → s.phase = .idle → s.cmd = some w →
    (opField w ∈ reservedOpcodes ∨ rsvField w ≠ 0) →
    ∃ t, step s = .next t ∧ FailedWith .illegalCommand { s with cmd := none } t

/-- R81: of two errors that apply to one word, ILLEGAL_COMMAND is reported; INDEX_OUT_OF_RANGE only for a legal word. (That
the port is empty after the acceptance is the model's choice, log 20.) -/
def Obligations.IllegalCommandWinsOverIndexOutOfRange : Prop :=
  ∀ (s : State) (w : CmdWord), s.rst = false → s.phase = .idle → s.cmd = some w →
    ((rsvField w ≠ 0 ∨ opField w ∈ reservedOpcodes) →
      ∃ t, step s = .next t ∧ FailedWith .illegalCommand { s with cmd := none } t) ∧
    (rsvField w = 0 →
      ((opField w = 0x3 ∨ opField w = 0x4) ∧ 14 ≤ (idxField w).toNat ∨ opField w = 0x7 ∧ 24 ≤ (idxField w).toNat) →
      ∃ t, step s = .next t ∧ FailedWith .indexOutOfRange { s with cmd := none } t)

/-- R43, R66: in `STREAM(j, mode)`, when the transmitter accepts, the step sends the word of position `j`, corrected or raw,
and goes on to `STREAM(j + 1, mode)`, or to `BOUND` after position 23; the stores and `ERR` stay. (That the acceptance
uses up `out_ready` is log 5.) -/
def Obligations.PixelTransferSendsTheWordAndAdvances : Prop :=
  ∀ (s : State) (j : Fin 24) (mode : StreamMode), s.rst = false → s.phase = .stream j mode → s.outReady = true →
    ∃ t, step s = .next t ∧
      t.sent = s.sent ++ [.pixel (match mode with | .corr => g4 Config.chip s.buf[j] | .raw => s.buf[j])] ∧
      (∀ k : Fin 24, k.val = j.val + 1 → t.phase = .stream k mode) ∧ (j.val = 23 → t.phase = .bound) ∧
      t.frame = s.frame ∧ t.buf = s.buf ∧ t.err = s.err ∧ t.rst = false ∧ t.cmd = s.cmd ∧
      t.rspReady = s.rspReady ∧ t.outReady = false ∧ t.agenda = s.agenda ∧ t.responses = s.responses

/-- R43, R66: in `BOUND`, when the transmitter accepts, the step sends the boundary token and presents (OK, 0). (That the
acceptance uses up `out_ready` is the model's choice, log 5.) -/
def Obligations.BoundaryTransferEndsTheStream : Prop :=
  ∀ s : State, s.rst = false → s.phase = .bound → s.outReady = true →
    ∃ t, step s = .next t ∧ t.sent = s.sent ++ [.boundary] ∧ t.phase = .resp .ok 0 ∧
      t.frame = s.frame ∧ t.buf = s.buf ∧ t.err = s.err ∧ t.rst = false ∧ t.cmd = s.cmd ∧
      t.rspReady = s.rspReady ∧ t.outReady = false ∧ t.agenda = s.agenda ∧ t.responses = s.responses

/-- R66, R84: in `RESP(s, d)`, when the caller accepts, the step hands it the response and goes back to IDLE, after an
error as after success. (That the acceptance uses up `rsp_ready` is the model's choice, log 5.) -/
def Obligations.ResponseTransferReturnsToIdle : Prop :=
  ∀ (s : State) (st : Status) (d : Word), s.rst = false → s.phase = .resp st d → s.rspReady = true →
    ∃ t, step s = .next t ∧ t.responses = s.responses ++ [⟨st, d⟩] ∧ t.phase = .idle ∧
      t.frame = s.frame ∧ t.buf = s.buf ∧ t.err = s.err ∧ t.rst = false ∧ t.cmd = s.cmd ∧
      t.rspReady = false ∧ t.outReady = s.outReady ∧ t.agenda = s.agenda ∧ t.sent = s.sent

/-- R66, R67 and log 7: the step is stuck exactly when `rst` is 0, no transfer can happen and no agent will move; the
fault names what the block waits for. -/
def Obligations.WaitsAreStuckStates : Prop :=
  ∀ (s : State) (f : Fault), step s = .fault f ↔
    s.rst = false ∧ s.agenda = [] ∧
      ((s.phase = .idle ∧ s.cmd = none ∧ f = .waitingForCommand) ∨
       (((∃ j mode, s.phase = .stream j mode) ∨ s.phase = .bound) ∧ s.outReady = false ∧ f = .waitingForTransmitter) ∨
       ((∃ st d, s.phase = .resp st d) ∧ s.rspReady = false ∧ f = .waitingForCaller))

/-- R41 item 2, R94 item 3 and log 11: the only thing a step refuses is a caller's move that changes a command word still
waiting to be accepted. -/
def Obligations.OnlyAChangedCommandWordIsRefused : Prop :=
  ∀ (s : State) (r : Refusal), step s = .refused r ↔
    r = .callerChangedCommand ∧ s.rst = false ∧ transferEnabled s = false ∧
      ∃ v w rest, s.cmd = some v ∧ v ≠ w ∧ s.agenda = .presentCommand w :: rest

/-- R41 items 2 and 5: while no transfer and no reset happens, whatever the agents outside do, the block keeps its state,
its valids and its payloads, and a command word that waits stays on the port. -/
def Obligations.BlockHoldsWhatItOffersUntilTheTransfer : Prop :=
  ∀ s t : State, s.rst = false → transferEnabled s = false → step s = .next t →
    SameBlock s t ∧ t.sent = s.sent ∧ t.responses = s.responses ∧ (∀ w, s.cmd = some w → t.cmd = some w) ∧
    (t.rst = false → cmdReady t = cmdReady s ∧ outPort Config.chip t = outPort Config.chip s ∧ rspPort t = rspPort s)

/-- R41 item 1, R42, R43: a step that adds to the output stream or to the responses adds exactly what the port presented,
and only with valid and ready both 1 and `rst` 0. -/
def Obligations.OnlyPresentedPayloadsAreTransferred : Prop :=
  ∀ s t : State, step s = .next t →
    (t.sent = s.sent ∨
      ∃ x, outPort Config.chip s = some x ∧ s.outReady = true ∧ s.rst = false ∧ t.sent = s.sent ++ [x]) ∧
    (t.responses = s.responses ∨
      ∃ r, rspPort s = some r ∧ s.rspReady = true ∧ s.rst = false ∧ t.phase = .idle ∧
        t.responses = s.responses ++ [r])

/-- R40: with `rst = 0` exactly one of `cmd_ready`, `out_valid` and `rsp_valid` is 1. -/
def Obligations.ExactlyOneChannelIsActive : Prop :=
  ∀ (c : Config) (s : State), s.rst = false →
    (cmdReady s = true ∧ outPort c s = none ∧ rspPort s = none) ∨
    (cmdReady s = false ∧ (outPort c s).isSome = true ∧ rspPort s = none) ∨
    (cmdReady s = false ∧ outPort c s = none ∧ (rspPort s).isSome = true)

/-- R34 item 4, R97: from a command's acceptance until its response is accepted no other command is accepted, so the
stores and `ERR` stay as they are, and a presented word stays on the port. -/
def Obligations.OneCommandInFlight : Prop :=
  ∀ s t : State, s.rst = false → s.phase ≠ .idle → step s = .next t →
    cmdReady s = false ∧ t.frame = s.frame ∧ t.buf = s.buf ∧ t.err = s.err ∧ ∀ w, s.cmd = some w → t.cmd = some w

/-! ### Reset (70_reset_and_hazards.md) -/

/-- R91: a rising edge with `rst = 1`, from any state, sets every entry, `ERR` and `phase`; meanwhile no channel is
active and none transfers (nothing is sent, nothing is answered); at the first edge with `rst = 0` the block is ready for
a command. That a presented command is still on its port afterwards is no rule of the spec but the model's choice, log 8:
a caller may withdraw it at reset. -/
def Obligations.ResetEdgeSetsTheResetValues : Prop :=
  ∀ s : State, s.rst = true →
    cmdReady s = false ∧ outPort Config.chip s = none ∧ rspPort s = none ∧
    ∃ t, step s = .next t ∧ (∀ i : Fin 14, t.frame[i] = 0x00000000) ∧ (∀ j : Fin 24, t.buf[j] = 0x00000000) ∧
      t.err = false ∧ t.phase = .idle ∧ t.cmd = s.cmd ∧ t.sent = s.sent ∧ t.responses = s.responses ∧
      cmdReady { t with rst := false } = true

/-- The model's choice, log 8: a reset edge uses up `rst`, and the agents outside keep their pins, their coming moves and,
as R93 says of a stream cut short, what they have seen. -/
def Obligations.ResetEdgeKeepsWhatTheAgentsHold : Prop :=
  ∀ s t : State, s.rst = true → step s = .next t → SameOutside { s with rst := false } t

/-- R25: the reset values of the block's state. -/
def Obligations.ResetStateHoldsTheResetValues : Prop :=
  (∀ i : Fin 14, State.reset.frame[i] = 0x00000000) ∧ (∀ j : Fin 24, State.reset.buf[j] = 0x00000000) ∧
  State.reset.phase = .idle ∧ State.reset.err = false

/-! ### The commands: result, completion and frame -/

/-- R54: FRAME_ZERO. -/
def Obligations.FrameZeroClearsTheFrame : Prop :=
  (∀ w : CmdWord, opField w = 0x1 → rsvField w = 0 → decode w = .ok .frameZero) ∧
  encode .frameZero = 0x0000000000000001 ∧
  ∀ s : State, ∃ t, exec .frameZero s = .next t ∧ (∀ i : Fin 14, t.frame[i] = 0x00000000) ∧
    t.phase = .resp .ok 0 ∧ t.buf = s.buf ∧ t.err = s.err ∧ SameOutside s t ∧
    exec .frameZero t = .next t ∧ exec (.frameFill 0x00000000) s = .next t

/-- R55: FRAME_FILL. -/
def Obligations.FrameFillSetsEveryEntry : Prop :=
  ∀ dat : Word,
    (∀ w : CmdWord, opField w = 0x2 → rsvField w = 0 → decode w = .ok (.frameFill (datField w))) ∧
    encode (.frameFill dat) = (dat.setWidth 64 <<< 32) ||| 0x2 ∧
    ∀ s : State, ∃ t, exec (.frameFill dat) s = .next t ∧ (∀ i : Fin 14, t.frame[i] = dat) ∧
      t.phase = .resp .ok 0 ∧ t.buf = s.buf ∧ t.err = s.err ∧ SameOutside s t

/-- R56: FRAME_SET writes entry `idx` when `idx` is 0..13; else it fails and writes nothing, neither wrapped nor
truncated. Writing twice keeps the second value. -/
def Obligations.FrameSetWritesOneEntryOrFails : Prop :=
  (∀ w : CmdWord, opField w = 0x3 → rsvField w = 0 → decode w = .ok (.frameSet (idxField w) (datField w))) ∧
  ∀ (idx : BitVec 5) (dat : Word),
    encode (.frameSet idx dat) = (dat.setWidth 64 <<< 32) ||| (idx.setWidth 64 <<< 4) ||| 0x3 ∧
    ∀ s : State,
      (idx.toNat < 14 → ∃ t, exec (.frameSet idx dat) s = .next t ∧
        (∀ i : Fin 14, t.frame[i] = if i.val = idx.toNat then dat else s.frame[i]) ∧
        t.phase = .resp .ok 0 ∧ t.buf = s.buf ∧ t.err = s.err ∧ SameOutside s t ∧
        ∀ dat' : Word, exec (.frameSet idx dat') t = exec (.frameSet idx dat') s) ∧
      (14 ≤ idx.toNat → ∃ t, exec (.frameSet idx dat) s = .next t ∧ FailedWith .indexOutOfRange s t)

/-- R57: FRAME_GET returns entry `idx`, raw, when `idx` is 0..13; else it fails. -/
def Obligations.FrameGetReturnsOneEntryOrFails : Prop :=
  (∀ w : CmdWord, opField w = 0x4 → rsvField w = 0 → decode w = .ok (.frameGet (idxField w))) ∧
  ∀ idx : BitVec 5,
    encode (.frameGet idx) = (idx.setWidth 64 <<< 4) ||| 0x4 ∧
    ∀ s : State,
      (∀ i : Fin 14, i.val = idx.toNat → ∃ t, exec (.frameGet idx) s = .next t ∧
        t.phase = .resp .ok s.frame[i] ∧ t.frame = s.frame ∧ t.buf = s.buf ∧ t.err = s.err ∧ SameOutside s t) ∧
      (14 ≤ idx.toNat → ∃ t, exec (.frameGet idx) s = .next t ∧ FailedWith .indexOutOfRange s t)

/-- R69, with R65 and R68 at acceptance: RENDER writes the frame to the mapped positions, raw, leaves the unmapped
positions and the frame as they are, and starts a corrected stream, whose `j`-th word is `G4(FRAME[i])` where `j = M(i)`
and `G4` of the old entry where `j` is unmapped. -/
def Obligations.RenderRemapsAndStartsTheStream : Prop :=
  ∀ s : State, ∃ t, exec .render s = .next t ∧
    (∀ i : Fin 14, t.buf[Config.chip.M i] = s.frame[i]) ∧
    (∀ j : Fin 24, Config.chip.Unmapped j → t.buf[j] = s.buf[j]) ∧
    (∀ j : Fin 24, ∃ w, outPort Config.chip { t with rst := false, phase := .stream j .corr } = some (.pixel w) ∧
      (∀ i : Fin 14, Config.chip.M i = j → w = g4 Config.chip s.frame[i]) ∧
      (Config.chip.Unmapped j → w = g4 Config.chip s.buf[j])) ∧
    t.phase = .stream 0 .corr ∧ t.frame = s.frame ∧ t.err = s.err ∧ SameOutside s t

/-- R71 at acceptance: CLEAR writes its colour to every position, leaves the frame alone and starts a raw stream. -/
def Obligations.ClearFillsTheBufferAndStartsTheStream : Prop :=
  ∀ (dat : Word) (s : State), ∃ t, exec (.clear dat) s = .next t ∧ (∀ j : Fin 24, t.buf[j] = dat) ∧
    t.phase = .stream 0 .raw ∧ t.frame = s.frame ∧ t.err = s.err ∧ SameOutside s t

/-- R72: BUF_GET returns entry `idx`, raw, when `idx` is 0..23; else it fails. -/
def Obligations.BufGetReturnsOneEntryOrFails : Prop :=
  (∀ w : CmdWord, opField w = 0x7 → rsvField w = 0 → decode w = .ok (.bufGet (idxField w))) ∧
  ∀ idx : BitVec 5,
    encode (.bufGet idx) = (idx.setWidth 64 <<< 4) ||| 0x7 ∧
    ∀ s : State,
      (∀ j : Fin 24, j.val = idx.toNat → ∃ t, exec (.bufGet idx) s = .next t ∧
        t.phase = .resp .ok s.buf[j] ∧ t.frame = s.frame ∧ t.buf = s.buf ∧ t.err = s.err ∧ SameOutside s t) ∧
      (24 ≤ idx.toNat → ∃ t, exec (.bufGet idx) s = .next t ∧ FailedWith .indexOutOfRange s t)

/-- R64: CORRECT returns the word with every lane passed through `G`; 0 and 0xFFFFFFFF return themselves, and a single
channel `v` returns `zext_32(G(v))`. -/
def Obligations.CorrectReturnsTheCorrectedWord : Prop :=
  (∀ w : CmdWord, opField w = 0x8 → rsvField w = 0 → decode w = .ok (.correct (datField w))) ∧
  ∀ dat : Word,
    encode (.correct dat) = (dat.setWidth 64 <<< 32) ||| 0x8 ∧
    (∀ s : State, ∃ t d, exec (.correct dat) s = .next t ∧ t.phase = .resp .ok d ∧
      (∀ k : Fin 4, lane d k = Config.chip.G (lane dat k)) ∧
      (dat = 0 → d = 0) ∧ (dat = 0xFFFFFFFF → d = 0xFFFFFFFF) ∧
      (∀ v : Lane, dat = v.setWidth 32 → d = (Config.chip.G v).setWidth 32) ∧
      t.frame = s.frame ∧ t.buf = s.buf ∧ t.err = s.err ∧ SameOutside s t)

/-- R73, R23: STATUS_GET returns bit 0 = `ERR`, bit 1 = `TOPOLOGY` and 0 in bits [31:2], and does not clear `ERR`. -/
def Obligations.StatusGetReturnsErrAndTopology : Prop :=
  (∀ w : CmdWord, opField w = 0x9 → rsvField w = 0 → decode w = .ok .statusGet) ∧
  encode .statusGet = 0x0000000000000009 ∧
  ∀ s : State, ∃ t d, exec .statusGet s = .next t ∧ t.phase = .resp .ok d ∧
    d.getLsbD 0 = s.err ∧ d.getLsbD 1 = decide (Config.chip.topology = 1) ∧ d.extractLsb' 2 30 = 0#30 ∧
    t.frame = s.frame ∧ t.buf = s.buf ∧ t.err = s.err ∧ SameOutside s t

/-- R42, R75: every command is answered from every state, RENDER and CLEAR by a stream from position 0, every other one at
once with a response; a response not OK has data 0 and sets `ERR`, and an OK response has data other than 0 only for the four commands that
return a word. -/
def Obligations.EveryCommandIsAnswered : Prop :=
  ∀ (i : Instr) (s : State), ∃ t, exec i s = .next t ∧
    ((∃ mode, t.phase = .stream 0 mode ∧ (i = .render ∧ mode = .corr ∨ ∃ dat, i = .clear dat ∧ mode = .raw)) ∨
     (i ≠ .render ∧ (∀ dat, i ≠ .clear dat) ∧ ∃ st d, t.phase = .resp st d ∧ (st ≠ .ok → d = 0 ∧ t.err = true) ∧
       (d ≠ 0 → (∃ idx, i = .frameGet idx) ∨ (∃ idx, i = .bufGet idx) ∨ (∃ dat, i = .correct dat) ∨ i = .statusGet)))

/-- R13, R16, R22, R33: which command writes which store, that no command clears `ERR`, and that a command touches nothing
outside the block. -/
def Obligations.CommandsWriteOnlyTheirStore : Prop :=
  ∀ (i : Instr) (s t : State), exec i s = .next t →
    (t.frame = s.frame ∨ i = .frameZero ∨ (∃ dat, i = .frameFill dat) ∨ ∃ idx dat, i = .frameSet idx dat) ∧
    (t.buf = s.buf ∨ i = .render ∨ ∃ dat, i = .clear dat) ∧
    (t.err = s.err ∨ t.err = true ∧ t.phase = .resp .indexOutOfRange 0) ∧ SameOutside s t

/-- R13, R16: what a command does not read cannot be seen in its result. Only FRAME_GET and RENDER let the frame show,
and only BUF_GET and RENDER let the old buffer show. -/
def Obligations.CommandsReadOnlyTheirStore : Prop :=
  ∀ (i : Instr) (s t : State) (f : Frame) (b : Buf), exec i s = .next t →
    ((∀ idx, i ≠ .frameGet idx) → i ≠ .render →
      ∃ t', exec i { s with frame := f } = .next t' ∧ t'.buf = t.buf ∧ t'.err = t.err ∧ t'.phase = t.phase) ∧
    ((∀ idx, i ≠ .bufGet idx) → i ≠ .render →
      ∃ t', exec i { s with buf := b } = .next t' ∧ t'.frame = t.frame ∧ t'.err = t.err ∧ t'.phase = t.phase)

/-- R34 item 2: FRAME_GET after FRAME_SET returns the value set at that index, and at another index what it returned
before. -/
def Obligations.FrameGetAfterFrameSet : Prop :=
  ∀ (i k : BitVec 5) (dat : Word) (s t u : State), i.toNat < 14 → k.toNat < 14 →
    exec (.frameSet i dat) s = .next t → exec (.frameGet k) s = .next u →
    ∃ v, exec (.frameGet k) t = .next v ∧ v.phase = (if k = i then .resp .ok dat else u.phase)

/-- R22: `ERR` is set at the acceptance of every command whose status is not OK, no step but a reset clears it, and a
reset clears it. -/
def Obligations.ErrIsStickyUntilReset : Prop :=
  ∀ s t : State, step s = .next t →
    (s.rst = false → s.err = true → t.err = true) ∧
    (s.rst = false → s.err = false → t.err = true →
      s.phase = .idle ∧ (t.phase = .resp .indexOutOfRange 0 ∨ t.phase = .resp .illegalCommand 0)) ∧
    (s.rst = false → s.phase = .idle → ∀ st d, t.phase = .resp st d → st ≠ .ok → t.err = true) ∧
    (s.rst = true → t.err = false)

/-- R42, 93_implementation_defined.md I14: the codes of the three statuses, and the fault on a recorded status 3. -/
def Obligations.StatusCodesAndTheReservedOne : Prop :=
  Status.ok.bits = 0 ∧ Status.indexOutOfRange.bits = 1 ∧ Status.illegalCommand.bits = 2 ∧
  (∀ (st : Status) (d : Word), readResponse st.bits d = .next ⟨st, d⟩) ∧
  ∀ d : Word, readResponse 3 d = .fault .reservedStatus

/-! ### The gamma corrector (41_gamma.md) -/

/-- R59: L1, L2 and L3 hold of every valid table (L4 by the type); injectivity, fixed points other than 0 and 255, and
idempotence are not guaranteed. -/
def Obligations.GammaLawsAndWhatIsNotGuaranteed : Prop :=
  (∀ c : Config, c.G 0 = 0 ∧ c.G 255 = 255 ∧ ∀ a b : Lane, a.toNat ≤ b.toNat → (c.G a).toNat ≤ (c.G b).toNat) ∧
  (∃ c : Config, ∃ a b : Lane, a ≠ b ∧ c.G a = c.G b) ∧
  (∃ c : Config, ∀ v : Lane, v ≠ 0 → v ≠ 255 → c.G v ≠ v) ∧
  (∃ c : Config, ∃ v : Lane, c.G (c.G v) ≠ c.G v)

/-- R60: each lane of `G4(w)` is `G` of that lane of `w` and depends on no other lane. -/
def Obligations.LanesAreCorrectedIndependently : Prop :=
  ∀ (c : Config) (w w' : Word) (k : Fin 4),
    lane (g4 c w) k = c.G (lane w k) ∧ (lane w k = lane w' k → lane (g4 c w) k = lane (g4 c w') k)

/-- R61: P1 to P5, for every valid table. -/
def Obligations.CorrectedWordLaws : Prop :=
  ∀ c : Config,
    g4 c 0x00000000 = 0x00000000 ∧ g4 c 0xFFFFFFFF = 0xFFFFFFFF ∧
    (∀ v : Lane, g4 c (urgb v v v) = pack4 0 (c.G v) (c.G v) (c.G v)) ∧
    (∀ (w : Word) (k : Fin 4), (lane w k = 0x00 → lane (g4 c w) k = 0x00) ∧ (lane w k = 0xFF → lane (g4 c w) k = 0xFF)) ∧
    (∀ a b : Word, (∀ k : Fin 4, (lane a k).toNat ≤ (lane b k).toNat) →
      ∀ k : Fin 4, (lane (g4 c a) k).toNat ≤ (lane (g4 c b) k).toNat)

/-! ### The remapper and the stale slots (42_render.md, 10_state.md R17) -/

/-- R65: the remap copies entry `i` to position `M(i)`, writes no unmapped position, and the order of its 14 writes does
not matter. -/
def Obligations.RemapCopiesTheFrameInAnyOrder : Prop :=
  ∀ (c : Config) (frame : Frame) (buf : Buf),
    (∀ i : Fin 14, (remap c frame buf)[c.M i] = frame[i]) ∧
    (∀ j : Fin 24, c.Unmapped j → (remap c frame buf)[j] = buf[j]) ∧
    ∀ order : List (Fin 14), order.Perm (List.finRange 14) → remapAlong c frame order buf = remap c frame buf

/-- R6, R8: `N_UNMAPPED` is 10, for every valid pair of tables and either topology. -/
def Obligations.TenPositionsAreUnmapped : Prop :=
  ∀ c : Config, ((List.finRange 24).filter fun j => decide (c.Unmapped j)).length = 10

/-- R33: RENDER is idempotent on the state: a second one, with the frame unchanged, writes the same values. -/
def Obligations.SecondRenderKeepsTheBuffer : Prop :=
  ∀ s t u : State, exec .render s = .next t → exec .render { t with phase := .idle } = .next u → u = t

/-- R70 (T1 to T3): after FRAME_FILL C and RENDER, whatever came before, the word sent for a mapped position is `G4(C)`
and its buffer entry is raw `C`; the word of an unmapped position is `G4` of what its entry held. Black gives black. -/
def Obligations.RenderOfAFilledFrame : Prop :=
  ∀ (colour : Word) (s t u : State), exec (.frameFill colour) s = .next t → exec .render t = .next u →
    (∀ i : Fin 14, u.buf[Config.chip.M i] = colour ∧
      outPort Config.chip { u with rst := false, phase := .stream (Config.chip.M i) .corr } =
        some (.pixel (g4 Config.chip colour)) ∧
      (colour = 0 → outPort Config.chip { u with rst := false, phase := .stream (Config.chip.M i) .corr } =
        some (.pixel 0))) ∧
    (∀ j : Fin 24, Config.chip.Unmapped j → u.buf[j] = s.buf[j] ∧
      outPort Config.chip { u with rst := false, phase := .stream j .corr } =
        some (.pixel (g4 Config.chip s.buf[j])))

/-- R95, R96: after CLEAR c, a RENDER of any frame sends `G4(c)` at the unmapped positions, so black for black, and the
same word `c` when every lane of `c` is 0x00 or 0xFF. -/
def Obligations.ClearDecidesTheStaleSlotsOfALaterRender : Prop :=
  ∀ (colour : Word) (frame : Frame) (s t u : State), exec (.clear colour) s = .next t →
    exec .render { t with frame := frame, phase := .idle } = .next u →
    ∀ j : Fin 24, Config.chip.Unmapped j →
      streamWord Config.chip .corr u.buf[j] = g4 Config.chip colour ∧
      (colour = 0 → streamWord Config.chip .corr u.buf[j] = 0) ∧
      ((∀ k : Fin 4, lane colour k = 0x00 ∨ lane colour k = 0xFF) → streamWord Config.chip .corr u.buf[j] = colour)

/-- R17: the unmapped entries change only at CLEAR and at reset: if they hold the colour of the last CLEAR since reset, or
0, they do so after every step, whatever the agents outside do. -/
def Obligations.StaleSlotsHoldTheLastClearColour : Prop :=
  ∀ (s t : State) (colour : Word), (∀ j : Fin 24, Config.chip.Unmapped j → s.buf[j] = colour) → step s = .next t →
    ∀ j : Fin 24, Config.chip.Unmapped j → t.buf[j] = staleColourAfter s colour

/-! ### Whole commands -/

/-- R68, R69: from IDLE, with RENDER presented and a transmitter that accepts each transfer (25 of its moves come first),
51 steps take the machine to the response: 24 words in physical order, `G4(FRAME[i])` at `M(i)` and `G4` of the old entry
at the unmapped positions, then one boundary, and nothing else changes. The schedule, the use of `out_ready` and the empty
command port are the model's choice, log 4, log 5 and log 20. -/
def Obligations.RenderSendsTheFrameAndABoundary : Prop :=
  ∀ (s : State) (w : CmdWord) (rest : List Move), s.rst = false → s.phase = .idle → s.cmd = some w →
    decode w = .ok .render → s.outReady = false → s.agenda = List.replicate 25 .acceptTransfer ++ rest →
    ∃ (t : State) (words : Vector Word 24), run 51 s = .next t ∧
      t.sent = s.sent ++ words.toList.map .pixel ++ [.boundary] ∧
      (∀ i : Fin 14, words[Config.chip.M i] = g4 Config.chip s.frame[i]) ∧
      (∀ j : Fin 24, Config.chip.Unmapped j → words[j] = g4 Config.chip s.buf[j]) ∧
      (∀ i : Fin 14, t.buf[Config.chip.M i] = s.frame[i]) ∧
      (∀ j : Fin 24, Config.chip.Unmapped j → t.buf[j] = s.buf[j]) ∧
      t.phase = .resp .ok 0 ∧ t.frame = s.frame ∧ t.err = s.err ∧ t.responses = s.responses ∧
      t.rst = false ∧ t.cmd = none ∧ t.rspReady = s.rspReady ∧ t.outReady = false ∧ t.agenda = rest

/-- R71: the same for CLEAR: 24 times the raw colour, then one boundary, and every buffer entry holds the colour. The
schedule, the use of `out_ready` and the empty command port are the model's choice, log 4, log 5 and log 20. -/
def Obligations.ClearSendsTheColourAndABoundary : Prop :=
  ∀ (s : State) (w : CmdWord) (colour : Word) (rest : List Move), s.rst = false → s.phase = .idle → s.cmd = some w →
    decode w = .ok (.clear colour) → s.outReady = false → s.agenda = List.replicate 25 .acceptTransfer ++ rest →
    ∃ t : State, run 51 s = .next t ∧
      t.sent = s.sent ++ List.replicate 24 (.pixel colour) ++ [.boundary] ∧ (∀ j : Fin 24, t.buf[j] = colour) ∧
      t.phase = .resp .ok 0 ∧ t.frame = s.frame ∧ t.err = s.err ∧ t.responses = s.responses ∧
      t.rst = false ∧ t.cmd = none ∧ t.rspReady = s.rspReady ∧ t.outReady = false ∧ t.agenda = rest

/-- R42, R75: every word presented in IDLE, legal or not, leads to exactly one response and back to IDLE when the
transmitter accepts 25 transfers and then the caller one response, with 25 transfers (24 words, one boundary) or none. The
schedule, the use of the readies and the empty command port are the model's choice, log 4, log 5 and log 20. -/
def Obligations.EveryWordGetsOneResponse : Prop :=
  ∀ (s : State) (w : CmdWord) (rest : List Move), s.rst = false → s.phase = .idle → s.cmd = some w →
    s.outReady = false → s.rspReady = false →
    s.agenda = List.replicate 25 .acceptTransfer ++ .acceptResponse :: rest →
    ∃ (n : Nat) (t : State) (r : Response), n ≤ 53 ∧ run n s = .next t ∧ t.phase = .idle ∧ t.cmd = none ∧
      t.rst = false ∧ t.agenda = rest ∧ t.responses = s.responses ++ [r] ∧
      ((∃ e, decode w = .error e) → r = ⟨.illegalCommand, 0⟩) ∧
      (t.sent = s.sent ∨ ∃ words : Vector Word 24, t.sent = s.sent ++ words.toList.map .pixel ++ [.boundary])

/-- R22, R35, R42, R65, R66, R71, R80, R97: every step from a state with the invariant keeps it. -/
def Obligations.EveryStepKeepsTheInvariant : Prop :=
  ∀ s t : State, Inv s → step s = .next t → Inv t

/-- The invariant holds right after reset. -/
def Obligations.ResetMeetsTheInvariant : Prop :=
  Inv State.reset

/-! ### The pins -/

/-- R40, R43: in `STREAM(j, mode)` the pins of the output stream carry `out_boundary = 0` and the word of position `j`, all
four lanes unshifted, in `BOUND` they carry `out_boundary = 1` and 0, in the other phases `out_valid` is 0; what the
transmitter gets when it accepts is what the pins carry. -/
def Obligations.OutputPinsCarryTheWordOrTheBoundary : Prop :=
  ∀ s : State, s.rst = false →
    (∀ (j : Fin 24) (mode : StreamMode), s.phase = .stream j mode → ∃ x, outPort Config.chip s = some x ∧
      x.boundaryBit = 0 ∧ x.data = (match mode with | .corr => g4 Config.chip s.buf[j] | .raw => s.buf[j]) ∧
      (s.outReady = true → ∃ t, step s = .next t ∧ t.sent = s.sent ++ [x])) ∧
    (s.phase = .bound → ∃ x, outPort Config.chip s = some x ∧ x.boundaryBit = 1 ∧ x.data = 0 ∧
      (s.outReady = true → ∃ t, step s = .next t ∧ t.sent = s.sent ++ [x])) ∧
    (s.phase = .idle → outPort Config.chip s = none) ∧
    (∀ (st : Status) (d : Word), s.phase = .resp st d → outPort Config.chip s = none)

/-- R40, R88, in the model's form (log 4, log 5): with `rst = 0` and no transfer enabled, the step is the next agent's move,
which leaves the agenda and sets exactly its own pin. A command word goes on an empty port, or is the one already there (the
remaining case, another word there, is refused: log 11). -/
def Obligations.AgentMoveSetsItsOwnPin : Prop :=
  ∀ (s : State) (rest : List Move), s.rst = false → transferEnabled s = false →
    (∀ w : CmdWord, s.agenda = .presentCommand w :: rest → s.cmd = none ∨ s.cmd = some w →
      step s = .next { s with agenda := rest, cmd := some w }) ∧
    (s.agenda = .acceptResponse :: rest → step s = .next { s with agenda := rest, rspReady := true }) ∧
    (s.agenda = .acceptTransfer :: rest → step s = .next { s with agenda := rest, outReady := true }) ∧
    (s.agenda = .assertReset :: rest → step s = .next { s with agenda := rest, rst := true })
end

