-- ==== Sys2Proof/Laws/Encoding.lean ====
section
/-! SUPPORT. What each field of a packed command word is: one lemma per field of R44. -/

namespace Sys2Proof

variable (op : BitVec 4) (idx : BitVec 5) (dat : Word)

theorem opField_packCommand : opField (packCommand op idx dat) = op := by
  apply BitVec.eq_of_getLsbD_eq
  intro k hk
  have h4 : k < 64 := by omega
  have h32 : k < 32 := by omega
  simp [opField, packCommand, hk, h4, h32]

theorem idxField_packCommand : idxField (packCommand op idx dat) = idx := by
  apply BitVec.eq_of_getLsbD_eq
  intro k hk
  have h4 : ¬ 4 + k < 4 := by omega
  have h64 : 4 + k < 64 := by omega
  have h32 : 4 + k < 32 := by omega
  simp [idxField, packCommand, hk, h64, h32]

theorem rsvField_packCommand : rsvField (packCommand op idx dat) = 0 := by
  apply BitVec.eq_of_getLsbD_eq
  intro k hk
  have h9 : ¬ 9 + k - 4 < 5 := by omega
  have h4 : ¬ 9 + k < 4 := by omega
  have h32 : 9 + k < 32 := by omega
  simp [rsvField, packCommand, hk, h32, BitVec.getLsbD_of_ge idx (9 + k - 4) (by omega),
    BitVec.getLsbD_of_ge op (9 + k) (by omega)]

theorem datField_packCommand : datField (packCommand op idx dat) = dat := by
  apply BitVec.eq_of_getLsbD_eq
  intro k hk
  have h64 : 32 + k < 64 := by omega
  simp [datField, packCommand, hk, h64, BitVec.getLsbD_of_ge idx (32 + k - 4) (by omega),
    BitVec.getLsbD_of_ge op (32 + k) (by omega)]

/-- The word as a number (R49). -/
theorem toNat_packCommand : (packCommand op idx dat).toNat = dat.toNat * 2 ^ 32 + idx.toNat * 2 ^ 4 + op.toNat := by
  have hd : (dat.setWidth 64 <<< 32).toNat = dat.toNat * 2 ^ 32 := by simp [Nat.shiftLeft_eq]; omega
  have hi : (idx.setWidth 64 <<< 4).toNat = idx.toNat * 2 ^ 4 := by simp [Nat.shiftLeft_eq]; omega
  have ho : (op.setWidth 64).toNat = op.toNat := by simp; omega
  rw [packCommand, BitVec.toNat_or, BitVec.toNat_or, hd, hi, ho, Nat.mul_comm,
    ← Nat.two_pow_add_eq_or_of_lt (by omega : idx.toNat * 2 ^ 4 < 2 ^ 32),
    show 2 ^ 32 * dat.toNat + idx.toNat * 2 ^ 4 = 2 ^ 4 * (2 ^ 28 * dat.toNat + idx.toNat) by omega,
    ← Nat.two_pow_add_eq_or_of_lt op.isLt]

/-- A command word is its four fields. -/
theorem cmdWord_ext (w w' : CmdWord) (ho : opField w = opField w') (hi : idxField w = idxField w')
    (hr : rsvField w = rsvField w') (hd : datField w = datField w') : w = w' := by
  apply BitVec.eq_of_getLsbD_eq
  intro k hk
  have bit {n m : Nat} (a b : BitVec n) (h : a = b) : a.getLsbD m = b.getLsbD m := by rw [h]
  rcases Nat.lt_or_ge k 4 with h | h
  · simpa [opField, h] using bit (m := k) _ _ ho
  rcases Nat.lt_or_ge k 9 with h9 | h9
  · have h' : k - 4 < 5 := by omega
    simpa [idxField, h', Nat.add_sub_cancel' h] using bit (m := k - 4) _ _ hi
  rcases Nat.lt_or_ge k 32 with h32 | h32
  · have h' : k - 9 < 23 := by omega
    simpa [rsvField, h', Nat.add_sub_cancel' h9] using bit (m := k - 9) _ _ hr
  · have h' : k - 32 < 32 := by omega
    simpa [datField, h', Nat.add_sub_cancel' h32] using bit (m := k - 32) _ _ hd

end Sys2Proof
end

