-- ==== Sys2Proof/Laws/State.lean ====
section
/-! SUPPORT. One lemma per field per named update of the state, so that no later proof unfolds a record update. The updates
made of others (`respond`, `raiseError`, `fillBuf`, `startStream`) unfold to them. -/

namespace Sys2Proof.Machine

variable (s : State)

@[simp] theorem State.setErr_frame (e : Bool) : (s.setErr e).frame = s.frame := rfl
@[simp] theorem State.setErr_buf (e : Bool) : (s.setErr e).buf = s.buf := rfl
@[simp] theorem State.setErr_err (e : Bool) : (s.setErr e).err = e := rfl
@[simp] theorem State.setErr_phase (e : Bool) : (s.setErr e).phase = s.phase := rfl
@[simp] theorem State.setErr_rst (e : Bool) : (s.setErr e).rst = s.rst := rfl
@[simp] theorem State.setErr_cmd (e : Bool) : (s.setErr e).cmd = s.cmd := rfl
@[simp] theorem State.setErr_rspReady (e : Bool) : (s.setErr e).rspReady = s.rspReady := rfl
@[simp] theorem State.setErr_outReady (e : Bool) : (s.setErr e).outReady = s.outReady := rfl
@[simp] theorem State.setErr_agenda (e : Bool) : (s.setErr e).agenda = s.agenda := rfl
@[simp] theorem State.setErr_sent (e : Bool) : (s.setErr e).sent = s.sent := rfl
@[simp] theorem State.setErr_responses (e : Bool) : (s.setErr e).responses = s.responses := rfl

@[simp] theorem State.writeFrame_frame (i : Fin 14) (v : Word) : (s.writeFrame i v).frame = s.frame.set i v := rfl
@[simp] theorem State.writeFrame_buf (i : Fin 14) (v : Word) : (s.writeFrame i v).buf = s.buf := rfl
@[simp] theorem State.writeFrame_err (i : Fin 14) (v : Word) : (s.writeFrame i v).err = s.err := rfl
@[simp] theorem State.writeFrame_phase (i : Fin 14) (v : Word) : (s.writeFrame i v).phase = s.phase := rfl
@[simp] theorem State.writeFrame_rst (i : Fin 14) (v : Word) : (s.writeFrame i v).rst = s.rst := rfl
@[simp] theorem State.writeFrame_cmd (i : Fin 14) (v : Word) : (s.writeFrame i v).cmd = s.cmd := rfl
@[simp] theorem State.writeFrame_rspReady (i : Fin 14) (v : Word) : (s.writeFrame i v).rspReady = s.rspReady := rfl
@[simp] theorem State.writeFrame_outReady (i : Fin 14) (v : Word) : (s.writeFrame i v).outReady = s.outReady := rfl
@[simp] theorem State.writeFrame_agenda (i : Fin 14) (v : Word) : (s.writeFrame i v).agenda = s.agenda := rfl
@[simp] theorem State.writeFrame_sent (i : Fin 14) (v : Word) : (s.writeFrame i v).sent = s.sent := rfl
@[simp] theorem State.writeFrame_responses (i : Fin 14) (v : Word) : (s.writeFrame i v).responses = s.responses := rfl

@[simp] theorem State.fillFrame_frame (v : Word) : (s.fillFrame v).frame = Vector.replicate 14 v := rfl
@[simp] theorem State.fillFrame_buf (v : Word) : (s.fillFrame v).buf = s.buf := rfl
@[simp] theorem State.fillFrame_err (v : Word) : (s.fillFrame v).err = s.err := rfl
@[simp] theorem State.fillFrame_phase (v : Word) : (s.fillFrame v).phase = s.phase := rfl
@[simp] theorem State.fillFrame_rst (v : Word) : (s.fillFrame v).rst = s.rst := rfl
@[simp] theorem State.fillFrame_cmd (v : Word) : (s.fillFrame v).cmd = s.cmd := rfl
@[simp] theorem State.fillFrame_rspReady (v : Word) : (s.fillFrame v).rspReady = s.rspReady := rfl
@[simp] theorem State.fillFrame_outReady (v : Word) : (s.fillFrame v).outReady = s.outReady := rfl
@[simp] theorem State.fillFrame_agenda (v : Word) : (s.fillFrame v).agenda = s.agenda := rfl
@[simp] theorem State.fillFrame_sent (v : Word) : (s.fillFrame v).sent = s.sent := rfl
@[simp] theorem State.fillFrame_responses (v : Word) : (s.fillFrame v).responses = s.responses := rfl

@[simp] theorem State.setBuf_frame (b : Buf) : (s.setBuf b).frame = s.frame := rfl
@[simp] theorem State.setBuf_buf (b : Buf) : (s.setBuf b).buf = b := rfl
@[simp] theorem State.setBuf_err (b : Buf) : (s.setBuf b).err = s.err := rfl
@[simp] theorem State.setBuf_phase (b : Buf) : (s.setBuf b).phase = s.phase := rfl
@[simp] theorem State.setBuf_rst (b : Buf) : (s.setBuf b).rst = s.rst := rfl
@[simp] theorem State.setBuf_cmd (b : Buf) : (s.setBuf b).cmd = s.cmd := rfl
@[simp] theorem State.setBuf_rspReady (b : Buf) : (s.setBuf b).rspReady = s.rspReady := rfl
@[simp] theorem State.setBuf_outReady (b : Buf) : (s.setBuf b).outReady = s.outReady := rfl
@[simp] theorem State.setBuf_agenda (b : Buf) : (s.setBuf b).agenda = s.agenda := rfl
@[simp] theorem State.setBuf_sent (b : Buf) : (s.setBuf b).sent = s.sent := rfl
@[simp] theorem State.setBuf_responses (b : Buf) : (s.setBuf b).responses = s.responses := rfl

@[simp] theorem State.setPhase_frame (p : Phase) : (s.setPhase p).frame = s.frame := rfl
@[simp] theorem State.setPhase_buf (p : Phase) : (s.setPhase p).buf = s.buf := rfl
@[simp] theorem State.setPhase_err (p : Phase) : (s.setPhase p).err = s.err := rfl
@[simp] theorem State.setPhase_phase (p : Phase) : (s.setPhase p).phase = p := rfl
@[simp] theorem State.setPhase_rst (p : Phase) : (s.setPhase p).rst = s.rst := rfl
@[simp] theorem State.setPhase_cmd (p : Phase) : (s.setPhase p).cmd = s.cmd := rfl
@[simp] theorem State.setPhase_rspReady (p : Phase) : (s.setPhase p).rspReady = s.rspReady := rfl
@[simp] theorem State.setPhase_outReady (p : Phase) : (s.setPhase p).outReady = s.outReady := rfl
@[simp] theorem State.setPhase_agenda (p : Phase) : (s.setPhase p).agenda = s.agenda := rfl
@[simp] theorem State.setPhase_sent (p : Phase) : (s.setPhase p).sent = s.sent := rfl
@[simp] theorem State.setPhase_responses (p : Phase) : (s.setPhase p).responses = s.responses := rfl

@[simp] theorem State.acceptResponse_frame (st : Status) (d : Word) : (s.acceptResponse st d).frame = s.frame := rfl
@[simp] theorem State.acceptResponse_buf (st : Status) (d : Word) : (s.acceptResponse st d).buf = s.buf := rfl
@[simp] theorem State.acceptResponse_err (st : Status) (d : Word) : (s.acceptResponse st d).err = s.err := rfl
@[simp] theorem State.acceptResponse_phase (st : Status) (d : Word) : (s.acceptResponse st d).phase = .idle := rfl
@[simp] theorem State.acceptResponse_rst (st : Status) (d : Word) : (s.acceptResponse st d).rst = s.rst := rfl
@[simp] theorem State.acceptResponse_cmd (st : Status) (d : Word) : (s.acceptResponse st d).cmd = s.cmd := rfl
@[simp] theorem State.acceptResponse_rspReady (st : Status) (d : Word) : (s.acceptResponse st d).rspReady = false := rfl
@[simp] theorem State.acceptResponse_outReady (st : Status) (d : Word) : (s.acceptResponse st d).outReady = s.outReady := rfl
@[simp] theorem State.acceptResponse_agenda (st : Status) (d : Word) : (s.acceptResponse st d).agenda = s.agenda := rfl
@[simp] theorem State.acceptResponse_sent (st : Status) (d : Word) : (s.acceptResponse st d).sent = s.sent := rfl
@[simp] theorem State.acceptResponse_responses (st : Status) (d : Word) : (s.acceptResponse st d).responses = s.responses ++ [⟨st, d⟩] := rfl

@[simp] theorem State.takeCommand_frame : (s.takeCommand).frame = s.frame := rfl
@[simp] theorem State.takeCommand_buf : (s.takeCommand).buf = s.buf := rfl
@[simp] theorem State.takeCommand_err : (s.takeCommand).err = s.err := rfl
@[simp] theorem State.takeCommand_phase : (s.takeCommand).phase = s.phase := rfl
@[simp] theorem State.takeCommand_rst : (s.takeCommand).rst = s.rst := rfl
@[simp] theorem State.takeCommand_cmd : (s.takeCommand).cmd = none := rfl
@[simp] theorem State.takeCommand_rspReady : (s.takeCommand).rspReady = s.rspReady := rfl
@[simp] theorem State.takeCommand_outReady : (s.takeCommand).outReady = s.outReady := rfl
@[simp] theorem State.takeCommand_agenda : (s.takeCommand).agenda = s.agenda := rfl
@[simp] theorem State.takeCommand_sent : (s.takeCommand).sent = s.sent := rfl
@[simp] theorem State.takeCommand_responses : (s.takeCommand).responses = s.responses := rfl

@[simp] theorem State.send_frame (x : Transfer) : (s.send x).frame = s.frame := rfl
@[simp] theorem State.send_buf (x : Transfer) : (s.send x).buf = s.buf := rfl
@[simp] theorem State.send_err (x : Transfer) : (s.send x).err = s.err := rfl
@[simp] theorem State.send_phase (x : Transfer) : (s.send x).phase = s.phase := rfl
@[simp] theorem State.send_rst (x : Transfer) : (s.send x).rst = s.rst := rfl
@[simp] theorem State.send_cmd (x : Transfer) : (s.send x).cmd = s.cmd := rfl
@[simp] theorem State.send_rspReady (x : Transfer) : (s.send x).rspReady = s.rspReady := rfl
@[simp] theorem State.send_outReady (x : Transfer) : (s.send x).outReady = false := rfl
@[simp] theorem State.send_agenda (x : Transfer) : (s.send x).agenda = s.agenda := rfl
@[simp] theorem State.send_sent (x : Transfer) : (s.send x).sent = s.sent ++ [x] := rfl
@[simp] theorem State.send_responses (x : Transfer) : (s.send x).responses = s.responses := rfl

@[simp] theorem State.respond_eq (st : Status) (d : Word) : s.respond st d = s.setPhase (.resp st d) := rfl

@[simp] theorem State.raiseError_eq (e : BlockError) : s.raiseError e = (s.setErr true).setPhase (.resp e.code 0) := rfl

@[simp] theorem State.fillBuf_eq (v : Word) : s.fillBuf v = s.setBuf (Vector.replicate 24 v) := rfl

@[simp] theorem State.startStream_eq (mode : StreamMode) : s.startStream mode = s.setPhase (.stream 0 mode) := rfl

@[simp] theorem State.readFrame_eq (i : Fin 14) : s.readFrame i = s.frame[i] := rfl

@[simp] theorem State.readBuf_eq (j : Fin 24) : s.readBuf j = s.buf[j] := rfl

end Sys2Proof.Machine
end

