-- ==== Sys2Proof/Laws/Ops.lean ====
section
/-! SUPPORT. What each shared operation does: the index checks, the lanes of a word, the remap's loop. -/

namespace Sys2Proof.Machine

/-- An index check answers an index exactly when the field is below the bound, and then the field's value. -/
theorem frameIndex_eq_some (idx : BitVec 5) (i : Fin 14) : frameIndex idx = some i ↔ i.val = idx.toNat := by
  unfold frameIndex
  split
  · simp [Fin.ext_iff, eq_comm]
  · simp; omega

theorem frameIndex_eq_none (idx : BitVec 5) : frameIndex idx = none ↔ 14 ≤ idx.toNat := by
  unfold frameIndex
  split <;> simp <;> omega

theorem bufIndex_eq_some (idx : BitVec 5) (j : Fin 24) : bufIndex idx = some j ↔ j.val = idx.toNat := by
  unfold bufIndex
  split
  · simp [Fin.ext_iff, eq_comm]
  · simp; omega

theorem bufIndex_eq_none (idx : BitVec 5) : bufIndex idx = none ↔ 24 ≤ idx.toNat := by
  unfold bufIndex
  split <;> simp <;> omega

/-- The bits of a packed word, lane by lane (R10). -/
theorem getLsbD_pack4 (l3 l2 l1 l0 : Lane) (n : Nat) :
    (pack4 l3 l2 l1 l0).getLsbD n =
      if n < 8 then l0.getLsbD n
      else if n < 16 then l1.getLsbD (n - 8)
      else if n < 24 then l2.getLsbD (n - 16)
      else l3.getLsbD (n - 24) := by
  have h : (pack4 l3 l2 l1 l0).getLsbD n = (((l3 ++ l2 : BitVec (8 + 8)) ++ l1 : BitVec (8 + 8 + 8)) ++ l0).getLsbD n := rfl
  rw [h, BitVec.getLsbD_append, BitVec.getLsbD_append, BitVec.getLsbD_append]
  simp only [Nat.sub_sub, show (n - 8 < 8) = (n < 16) by simp; omega,
    show (n - (8 + 8) < 8) = (n < 24) by simp; omega]

/-- The lanes of a packed word are the lanes it was packed from (R10). -/
theorem lane_pack4 (l3 l2 l1 l0 : Lane) :
    lane (pack4 l3 l2 l1 l0) 0 = l0 ∧ lane (pack4 l3 l2 l1 l0) 1 = l1 ∧
    lane (pack4 l3 l2 l1 l0) 2 = l2 ∧ lane (pack4 l3 l2 l1 l0) 3 = l3 := by
  refine ⟨?_, ?_, ?_, ?_⟩ <;> apply BitVec.eq_of_getLsbD_eq <;> intro k hk
  · simp [lane, getLsbD_pack4, hk]
  · simp [lane, getLsbD_pack4, hk, show 8 + k < 16 by omega]
  · simp [lane, getLsbD_pack4, hk, show ¬ 16 + k < 8 by omega, show 16 + k < 24 by omega]
  · simp [lane, getLsbD_pack4, hk, show ¬ 24 + k < 8 by omega, show ¬ 24 + k < 16 by omega]

/-- A packed word as a number (R10). -/
theorem toNat_pack4 (l3 l2 l1 l0 : Lane) :
    (pack4 l3 l2 l1 l0).toNat = 16777216 * l3.toNat + 65536 * l2.toNat + 256 * l1.toNat + l0.toNat := by
  have append {n : Nat} (x : BitVec n) (y : Lane) : (x ++ y).toNat = 256 * x.toNat + y.toNat := by
    rw [BitVec.toNat_append, Nat.shiftLeft_eq, Nat.mul_comm, ← Nat.two_pow_add_eq_or_of_lt y.isLt]
  have h : (pack4 l3 l2 l1 l0).toNat = (((l3 ++ l2 : BitVec (8 + 8)) ++ l1 : BitVec (8 + 8 + 8)) ++ l0).toNat := rfl
  rw [h, append, append, append]
  omega

/-- A word is its four lanes (R10). -/
theorem word_ext_lanes (a b : Word) (h : ∀ k : Fin 4, lane a k = lane b k) : a = b := by
  apply BitVec.eq_of_getLsbD_eq
  intro n hn
  have hk := congrArg (fun l : Lane => l.getLsbD (n % 8)) (h ⟨n / 8, by omega⟩)
  have hm : n % 8 < 8 := Nat.mod_lt _ (by decide)
  simpa [lane, hm, Nat.div_add_mod] using hk

/-- The remap's loop leaves a position alone that none of its indices reaches. -/
theorem remapAlong_get_of_unreached (c : Config) (frame : Frame) (order : List (Fin 14)) (buf : Buf) (j : Fin 24)
    (h : ∀ i ∈ order, c.M i ≠ j) : (remapAlong c frame order buf)[j] = buf[j] := by
  induction order generalizing buf with
  | nil => rfl
  | cons i rest ih =>
    have hi : (c.M i).val ≠ j.val := fun e => h i (by simp) (Fin.ext e)
    have step := ih (buf.set (c.M i) frame[i]) fun k hk => h k (by simp [hk])
    simpa [remapAlong, Vector.getElem_set, hi] using step

/-- The remap's loop puts each entry of its indices at its position: `M` is injective, so no later write undoes it. -/
theorem remapAlong_get_of_mem (c : Config) (frame : Frame) (order : List (Fin 14)) (buf : Buf) (i : Fin 14)
    (h : i ∈ order) : (remapAlong c frame order buf)[c.M i] = frame[i] := by
  induction order generalizing buf with
  | nil => simp at h
  | cons k rest ih =>
    by_cases hr : i ∈ rest
    · simpa [remapAlong] using ih (buf.set (c.M k) frame[k]) hr
    · obtain rfl : i = k := by simpa [hr] using h
      have unreached : ∀ k ∈ rest, c.M k ≠ c.M i := fun k hk e =>
        hr (by rwa [c.remap_injective c.topology k i e] at hk)
      have := remapAlong_get_of_unreached c frame rest (buf.set (c.M i) frame[i]) (c.M i) unreached
      simpa [remapAlong] using this

end Sys2Proof.Machine
end

