-- ==== Sys2Proof/Laws/PerInstr.lean ====
section
/-! SUPPORT. Facts about every command as it is encoded, one lemma per constructor. -/

namespace Sys2Proof.Laws.EncodesOpcode

/-- The word of a command carries its opcode, and its reserved bits are 0 (30_encoding.md R44, R46). -/
def Statement (i : Instr) : Prop := opField (encode i) = i.op ∧ rsvField (encode i) = 0

theorem packed (i : Instr) : Statement i := ⟨opField_packCommand .., rsvField_packCommand ..⟩

theorem frameZero : Statement .frameZero := packed _
theorem frameFill (dat : Word) : Statement (.frameFill dat) := packed _
theorem frameSet (idx : BitVec 5) (dat : Word) : Statement (.frameSet idx dat) := packed _
theorem frameGet (idx : BitVec 5) : Statement (.frameGet idx) := packed _
theorem render : Statement .render := packed _
theorem clear (dat : Word) : Statement (.clear dat) := packed _
theorem bufGet (idx : BitVec 5) : Statement (.bufGet idx) := packed _
theorem correct (dat : Word) : Statement (.correct dat) := packed _
theorem statusGet : Statement .statusGet := packed _

end Sys2Proof.Laws.EncodesOpcode
end

