-- ==== Sys2Proof/Laws/Step.lean ====
section
/-! SUPPORT. Everything a step can do, said once: the inversion lemmas the claims about steps are derived from. -/

namespace Sys2Proof.Machine

/-- A move of an agent outside that answers a next state has changed its own pin, or nothing. -/
theorem agentMove_cases {m : Move} {s t : State} (h : agentMove m s = .next t) :
    (∃ w, m = .presentCommand w ∧ (s.cmd = none ∨ s.cmd = some w) ∧ t = { s with cmd := some w }) ∨
    (m = .acceptResponse ∧ t = { s with rspReady := true }) ∨
    (m = .acceptTransfer ∧ t = { s with outReady := true }) ∨
    (m = .assertReset ∧ t = { s with rst := true }) := by
  cases m with
  | presentCommand w =>
    refine .inl ⟨w, rfl, ?_⟩
    cases hc : s.cmd with
    | none => exact ⟨.inl rfl, by simpa [agentMove, hc, eq_comm] using h⟩
    | some v =>
      by_cases hv : v = w
      · subst hv
        refine ⟨.inr rfl, ?_⟩
        obtain rfl : s = t := by simpa [agentMove, hc] using h
        rw [← hc]
      · simp [agentMove, hc, hv] at h
  | acceptResponse => exact .inr (.inl ⟨rfl, by simpa [agentMove, eq_comm] using h⟩)
  | acceptTransfer => exact .inr (.inr (.inl ⟨rfl, by simpa [agentMove, eq_comm] using h⟩))
  | assertReset => exact .inr (.inr (.inr ⟨rfl, by simpa [agentMove, eq_comm] using h⟩))

/-- A step without reset and without an enabled transfer is the agents'. -/
theorem step_of_not_enabled {s : State} (hr : s.rst = false) (he : transferEnabled s = false) :
    step s = agentsStep s := by
  unfold transferEnabled at he
  unfold step machineStep
  cases hp : s.phase <;> simp_all

/-- The agents' step, when it answers a next state, is the move at the head of the agenda. -/
theorem agentsStep_cases {s t : State} (h : agentsStep s = .next t) :
    ∃ m rest, s.agenda = m :: rest ∧ agentMove m { s with agenda := rest } = .next t := by
  unfold agentsStep at h
  cases ha : s.agenda with
  | nil => simp [ha] at h
  | cons m rest => exact ⟨m, rest, rfl, by simpa [ha] using h⟩

/-- Every step that answers a next state is a reset edge, one of the four transfers, or a move of an agent outside. -/
theorem step_cases {s t : State} (h : step s = .next t) :
    (s.rst = true ∧ t = resetEdge s) ∨
    (s.rst = false ∧ s.phase = .idle ∧ ∃ w, s.cmd = some w ∧ runWord w s.takeCommand = .next t) ∨
    (s.rst = false ∧ s.outReady = true ∧ ∃ j mode, s.phase = .stream j mode ∧
      t = pixelTransfer Config.chip j mode s) ∨
    (s.rst = false ∧ s.outReady = true ∧ s.phase = .bound ∧ t = boundaryTransfer s) ∨
    (s.rst = false ∧ s.rspReady = true ∧ ∃ st d, s.phase = .resp st d ∧ t = s.acceptResponse st d) ∨
    (s.rst = false ∧ transferEnabled s = false ∧
      ∃ m rest, s.agenda = m :: rest ∧ agentMove m { s with agenda := rest } = .next t) := by
  cases hr : s.rst with
  | true => exact .inl ⟨rfl, by simpa [step, machineStep, hr, eq_comm] using h⟩
  | false =>
    cases he : transferEnabled s with
    | false =>
      rw [step_of_not_enabled hr he] at h
      exact .inr (.inr (.inr (.inr (.inr ⟨rfl, rfl, hr ▸ agentsStep_cases h⟩))))
    | true =>
      unfold transferEnabled at he
      unfold step machineStep at h
      cases hp : s.phase with
      | idle =>
        cases hc : s.cmd with
        | none => simp [hp, hc] at he
        | some w => exact .inr (.inl ⟨rfl, rfl, w, rfl, by simpa [hr, hp, hc] using h⟩)
      | stream j mode =>
        rw [hp] at he
        exact .inr (.inr (.inl ⟨rfl, he, j, mode, rfl, by simpa [hr, hp, he, eq_comm] using h⟩))
      | bound =>
        rw [hp] at he
        exact .inr (.inr (.inr (.inl ⟨rfl, he, rfl, by simpa [hr, hp, he, eq_comm] using h⟩)))
      | resp st d =>
        rw [hp] at he
        exact .inr (.inr (.inr (.inr (.inl ⟨rfl, he, st, d, rfl, by simpa [hr, hp, he, eq_comm] using h⟩))))

/-- An accepted word is answered: with the error of an illegal word, or by the rule of its command. -/
theorem runWord_cases {w : CmdWord} {s t : State} (h : runWord w s = .next t) :
    ((∃ e, decode w = .error e) ∧ t = s.raiseError .illegalCommand) ∨ ∃ i, decode w = .ok i ∧ exec i s = .next t := by
  unfold runWord at h
  cases hd : decode w with
  | error e => exact .inl ⟨⟨e, rfl⟩, by simpa [hd, rejectIllegal, eq_comm] using h⟩
  | ok i => exact .inr ⟨i, rfl, by simpa [hd] using h⟩

/-- What a command does when it answers a next state, in terms of the shared operations. -/
theorem exec_cases {i : Instr} {s t : State} (h : exec i s = .next t) :
    (i = .frameZero ∧ t = (s.fillFrame 0).respond .ok 0) ∨
    (∃ dat, i = .frameFill dat ∧ t = (s.fillFrame dat).respond .ok 0) ∨
    (∃ idx dat k, i = .frameSet idx dat ∧ frameIndex idx = some k ∧ t = (s.writeFrame k dat).respond .ok 0) ∨
    (∃ idx k, i = .frameGet idx ∧ frameIndex idx = some k ∧ t = s.respond .ok (s.readFrame k)) ∨
    (i = .render ∧ t = (s.setBuf (remap Config.chip s.frame s.buf)).startStream .corr) ∨
    (∃ dat, i = .clear dat ∧ t = (s.fillBuf dat).startStream .raw) ∨
    (∃ idx k, i = .bufGet idx ∧ bufIndex idx = some k ∧ t = s.respond .ok (s.readBuf k)) ∨
    (∃ dat, i = .correct dat ∧ t = s.respond .ok (g4 Config.chip dat)) ∨
    (i = .statusGet ∧ t = s.respond .ok (statusWord Config.chip.topology s.err)) ∨
    (((∃ idx dat, i = .frameSet idx dat ∧ frameIndex idx = none) ∨
      (∃ idx, i = .frameGet idx ∧ frameIndex idx = none) ∨ ∃ idx, i = .bufGet idx ∧ bufIndex idx = none) ∧
      t = s.raiseError .indexOutOfRange) := by
  cases i with
  | frameZero => simpa [exec, execFrameZero, eq_comm] using h
  | frameFill dat => simpa [exec, execFrameFill, eq_comm] using h
  | frameSet idx dat => cases hk : frameIndex idx <;> simpa [exec, execFrameSet, hk, eq_comm] using h
  | frameGet idx => cases hk : frameIndex idx <;> simpa [exec, execFrameGet, hk, eq_comm] using h
  | render => simpa [exec, execRender, eq_comm] using h
  | clear dat => simpa [exec, execClear, eq_comm] using h
  | bufGet idx => cases hk : bufIndex idx <;> simpa [exec, execBufGet, hk, eq_comm] using h
  | correct dat => simpa [exec, execCorrect, eq_comm] using h
  | statusGet => simpa [exec, execStatusGet, eq_comm] using h

end Sys2Proof.Machine
end

