-- ==== Sys2Proof/Tests/Slice0.lean ====
section
/-! SUPPORT. The model's own tests: the well-formedness checks, decoding of words written out from the spec's encodings, the
spec's test vectors on one step or one operation, and for every statement with hypotheses a state that meets them. Expected
values are those of spec 30_encoding.md R52 and 95_test_vectors.md (named at each test). -/

namespace Sys2Proof.Tests

open Sys2Proof Sys2Proof.Machine

/-! ### Well-formedness: every check refuses an ill-formed command -/

theorem test_idx_outside_field : AsmCommand.wellFormed (.frameSet 32 0) = false := by decide
theorem test_idx_outside_field_get : AsmCommand.wellFormed (.frameGet 32) = false := by decide
theorem test_idx_outside_field_buf : AsmCommand.wellFormed (.bufGet 32) = false := by decide
theorem test_idx_outside_range_is_wellFormed : AsmCommand.wellFormed (.frameSet 31 0xFFFFFFFF) = true := by decide
theorem test_dat_outside_field_fill : AsmCommand.wellFormed (.frameFill 0x100000000) = false := by decide
theorem test_dat_outside_field_set : AsmCommand.wellFormed (.frameSet 0 0x100000000) = false := by decide
theorem test_dat_outside_field_clear : AsmCommand.wellFormed (.clear 0x100000000) = false := by decide
theorem test_dat_outside_field_correct : AsmCommand.wellFormed (.correct 0x100000000) = false := by decide
theorem test_channel_outside_field_fill : AsmCommand.wellFormed (.frameFillRgb 256 0 0) = false := by decide
theorem test_channel_outside_field_set : AsmCommand.wellFormed (.frameSetRgb 0 0 256 0) = false := by decide
theorem test_idx_outside_field_set_rgb : AsmCommand.wellFormed (.frameSetRgb 32 0 0 0) = false := by decide
theorem test_channel_outside_field_clear : AsmCommand.wellFormed (.clearRgb 0 0 256) = false := by decide
theorem test_channel_outside_field_correct8 : AsmCommand.wellFormed (.correct8 256) = false := by decide

/-! ### Decoding: words written out bit by bit as `dat(32) rsv(23) idx(5) op(4)` (R44), each with the fields it ignores set -/

/-- FRAME_ZERO, `idx` and `dat` all ones. -/
theorem test_decode_frameZero :
    decode 0b1111111111111111111111111111111100000000000000000000000111110001#64 = .ok .frameZero := by decide
/-- VF12: FRAME_FILL 0xFFFFFFFF with `idx` field 7, word 0xFFFFFFFF00000072. -/
theorem test_decode_frameFill :
    decode 0b1111111111111111111111111111111100000000000000000000000001110010#64 = .ok (.frameFill 0xFFFFFFFF#32) := by
  decide
/-- R52: FRAME_SET 13, 0x000A0A0A. -/
theorem test_decode_frameSet :
    decode 0b0000000000001010000010100000101000000000000000000000000011010011#64 = .ok (.frameSet 13 0x000A0A0A#32) := by
  decide
/-- P2: FRAME_GET 13, with `dat` all ones. -/
theorem test_decode_frameGet :
    decode 0b1111111111111111111111111111111100000000000000000000000011010100#64 = .ok (.frameGet 13) := by decide
/-- RENDER, `idx` and `dat` all ones. -/
theorem test_decode_render :
    decode 0b1111111111111111111111111111111100000000000000000000000111110101#64 = .ok .render := by decide
/-- P3: CLEAR 0x00808080. -/
theorem test_decode_clear :
    decode 0b0000000010000000100000001000000000000000000000000000000000000110#64 = .ok (.clear 0x00808080#32) := by decide
/-- R52: BUF_GET 23. -/
theorem test_decode_bufGet :
    decode 0b0000000000000000000000000000000000000000000000000000000101110111#64 = .ok (.bufGet 23) := by decide
/-- VG10: CORRECT 0x12345678 with `idx = 31`. -/
theorem test_decode_correct :
    decode 0b0001001000110100010101100111100000000000000000000000000111111000#64 = .ok (.correct 0x12345678#32) := by
  decide
/-- VC8: STATUS_GET with `dat` all ones. -/
theorem test_decode_statusGet :
    decode 0b1111111111111111111111111111111100000000000000000000000000001001#64 = .ok .statusGet := by decide
/-- VF10, VR10, VC4 and VC7: a reserved bit. -/
theorem test_decode_reserved_bits :
    decode 0x0000000100000203#64 = .error .reservedBits ∧ decode 0x0000000100000406#64 = .error .reservedBits ∧
    decode 0x00000000000002E3#64 = .error .reservedBits ∧ decode 0x8000000080000009#64 = .error .reservedBits := by decide
/-- VC2 and VC3: the reserved opcodes. -/
theorem test_decode_reserved_opcodes :
    ∀ op ∈ reservedOpcodes, decode (op.setWidth 64) = .error .reservedOpcode := by decide
/-- R46: no two rows of the opcode map have the same opcode. -/
theorem test_opcodes_differ : opcodeTable.Pairwise fun r r' => r.op ≠ r'.op := by decide
/-- R46: the mask is the opcode and the reserved bits. -/
theorem test_mask_covers_op_and_rsv :
    opField commandMask = 0xF#4 ∧ rsvField commandMask = 0x7FFFFF#23 ∧ idxField commandMask = 0 ∧ datField commandMask = 0 := by
  decide
theorem test_decodeTableWord_render : decodeTableWord 64 0x0000000000000005 = some .render := by decide
theorem test_decodeTableWord_short : decodeTableWord 32 0x00000003 = some (.frameSet 0 0) := by decide
theorem test_decodeTableWord_illegal : decodeTableWord 64 0 = none := by decide

/-! ### The assembler -/

/-- Three lines of P1: a comment line, a trailing comment, a command with an operand. -/
theorem test_assembleText_P1 :
    assembleText "; P1\nBLANK ; 6\nBUF_GET 23".toList = .ok [0x0000000000000006#64, 0x0000000000000177#64] := by decide
/-- P1: FRAME_FILL_RGB 128, 200, 16. -/
theorem test_assembleLine_rgb :
    assembleLine "FRAME_FILL_RGB 128, 200, 16".toList = .ok (some 0x0010C88000000002#64) := by decide
theorem test_assembleLine_refuses :
    assembleLine "FRAME_SET 32, 0".toList = .error .outsideField ∧
    assembleLine "FRAME_FILL_RGB 256, 0, 0".toList = .error .outsideField ∧
    assembleLine "FRAME_SET 1".toList = .error .badOperands ∧
    assembleLine "FRAME_FIL 1".toList = .error .unknownMnemonic := by decide
/-- R51: CORRECT8 v is CORRECT zext_32(v); 254 is VG8's value. -/
theorem test_assembleLine_correct8 : assembleLine "CORRECT8 254".toList = .ok (some 0x000000FE00000008#64) := by decide

/-! ### One command -/

/-- The next state, if there is one. -/
def nextOf : Host.Outcome State Fault Refusal → Option State
  | .next t => some t
  | .fault _ => none
  | .refused _ => none

/-- After reset, with a word presented. -/
def presenting (w : CmdWord) : State := { State.reset with cmd := some w }

/-- What the caller would read: the response presented, with `ERR`. -/
def answer (o : Host.Outcome State Fault Refusal) : Option (Option Response × Bool) :=
  (nextOf o).map fun t => (rspPort t, t.err)

/-- VF1. -/
theorem test_frameGet_after_reset : answer (step (presenting 0xD4)) = some (some ⟨.ok, 0⟩, false) := by decide
/-- VF3. -/
theorem test_frameSet_13 :
    (nextOf (step (presenting 0x00FF0000000000D3))).map (fun t => (t.frame[13], t.frame[12], t.phase)) =
      some (0x00FF0000#32, 0#32, .resp .ok 0) := by decide
/-- VF4: no wrap to entry 0. -/
theorem test_frameSet_14 :
    (nextOf (step (presenting 0x11111111000000E3))).map (fun t => (t.frame, t.err, t.phase)) =
      some (Vector.replicate 14 0, true, .resp .indexOutOfRange 0) := by decide
/-- VF2: lane 3 is kept. -/
theorem test_frameFill :
    (nextOf (exec (.frameFill 0xDEADBEEF) State.reset)).map (fun t => (t.frame[7], t.buf[7])) =
      some (0xDEADBEEF#32, 0#32) := by decide
/-- VF8. -/
theorem test_frameZero :
    (nextOf (exec .frameZero (State.reset.fillFrame 0x12345678))).map (fun t => (t.frame[9], t.phase)) =
      some (0#32, .resp .ok 0) := by decide
/-- VF9. -/
theorem test_frameGet_14 :
    answer (exec (.frameGet 14) State.reset) = some (some ⟨.indexOutOfRange, 0⟩, true) := by decide
/-- VR7. -/
theorem test_bufGet_bounds :
    answer (exec (.bufGet 23) State.reset) = some (some ⟨.ok, 0⟩, false) ∧
    answer (exec (.bufGet 24) State.reset) = some (some ⟨.indexOutOfRange, 0⟩, true) ∧
    answer (exec (.bufGet 31) State.reset) = some (some ⟨.indexOutOfRange, 0⟩, true) := by decide
/-- VR5: FRAME unchanged, and the first word on the stream is raw. -/
theorem test_clear :
    (nextOf (exec (.clear 0x00808080) State.reset)).map (fun t => (t.buf[0], t.buf[23], t.frame[0], t.phase)) =
      some (0x00808080#32, 0x00808080#32, 0#32, .stream 0 .raw) := by decide
/-- VR9: RENDER's opcode with bit 9 set emits nothing. -/
theorem test_illegal_render_word :
    (nextOf (step (presenting 0x205))).map (fun t => (t.phase, t.err, t.sent)) =
      some (.resp .illegalCommand 0, true, []) := by decide
/-- R73, VC1, VC5: STATUS for both topologies. -/
theorem test_statusWord :
    statusWord 0 false = 0x00000000 ∧ statusWord 0 true = 0x00000001 ∧ statusWord 1 false = 0x00000002 ∧
    statusWord 1 true = 0x00000003 := by decide
/-- R43: the pins of the two kinds of transfer. -/
theorem test_transfer_pins :
    (Transfer.pixel 0x80FF0001).boundaryBit = 0 ∧ (Transfer.pixel 0x80FF0001).data = 0x80FF0001 ∧
    Transfer.boundary.boundaryBit = 1 ∧ Transfer.boundary.data = 0 := by decide
/-- Every row's word is accepted as the first command after reset. -/
theorem test_first_command_after_reset :
    ∀ op ∈ opcodeTable.map (·.op), (nextOf (step (State.reset.withFetchWord 64 op.toNat))).isSome = true := by
  intro op h
  fin_cases h <;> rfl
theorem test_render_starts_a_corrected_stream :
    (nextOf (step (State.reset.withFetchWord 64 5))).map (·.phase) = some (.stream 0 .corr) := by rfl

/-! ### The spec's test configuration TC, on the operations that take the tables -/

/-- `G_TC(v) = floor(v * v / 255)` (95_test_vectors.md). -/
def gammaTC (v : Lane) : Lane := BitVec.ofNat 8 (v.toNat * v.toNat / 255)

theorem gammaTC_mono (a b : Lane) (h : a ≤ b) : gammaTC a ≤ gammaTC b := by
  have hab : a.toNat ≤ b.toNat := h
  have hb : b.toNat * b.toNat / 255 ≤ 255 := by
    have : b.toNat * b.toNat ≤ 255 * 255 := Nat.mul_le_mul (by omega) (by omega)
    omega
  have le : a.toNat * a.toNat / 255 ≤ b.toNat * b.toNat / 255 := Nat.div_le_div_right (Nat.mul_le_mul hab hab)
  show (gammaTC a).toNat ≤ (gammaTC b).toNat
  simp only [gammaTC, BitVec.toNat_ofNat]
  rwa [Nat.mod_eq_of_lt (by omega), Nat.mod_eq_of_lt (by omega)]

/-- TC: `M_TC(i) = 23 - i`, `TOPOLOGY = 0`. -/
def configTC : Config where
  topology := 0
  gammaTable := gammaTC
  remapTables := fun _ i => ⟨23 - i.val, by omega⟩
  gamma_zero := by decide
  gamma_max := by decide
  gamma_mono := gammaTC_mono
  remap_injective := by intro t i k h; simp [Fin.ext_iff] at h; omega

/-- VG5, VG6, VG7. -/
theorem test_g4_TC :
    g4 configTC 0x12345678 = 0x010A1D38 ∧ g4 configTC 0x0010C880 = 0x00019C40 ∧ g4 configTC 0x80FF0001 = 0x40FF0000 := by
  decide
/-- VR2 and VR3: the remap of a filled frame after reset. -/
theorem test_remap_TC :
    (remap configTC (Vector.replicate 14 0x0010C880) (Vector.replicate 24 0)).toList =
      List.replicate 10 0 ++ List.replicate 14 0x0010C880 := by decide
/-- P2: position 10 is `M_TC(13)`, position 23 is `M_TC(0)`. -/
theorem test_remap_TC_order :
    let buf := remap configTC ((Vector.replicate 14 0).set 0 0x000000FF |>.set 13 0x00FF0000) (Vector.replicate 24 0)
    buf[23] = 0x000000FF ∧ buf[10] = 0x00FF0000 ∧ buf[11] = 0 := by decide
/-- VR6: a stale slot is streamed corrected, once. -/
theorem test_stream_of_a_stale_slot_TC :
    outPort configTC { State.reset with buf := Vector.replicate 24 0x00808080, phase := .stream 0 .corr } =
      some (.pixel 0x00404040) := by decide
/-- VR5: a raw stream sends the word as it is. -/
theorem test_raw_stream_TC :
    outPort configTC { State.reset with buf := Vector.replicate 24 0x00808080, phase := .stream 23 .raw } =
      some (.pixel 0x00808080) := by decide
theorem test_unmapped_TC : (List.finRange 24).filter (fun j => decide (configTC.Unmapped j)) = [0, 1, 2, 3, 4, 5, 6, 7, 8, 9] := by
  decide

/-! ### Witnesses: for each statement with hypotheses, values that meet them -/

theorem witness_EncodeOfDecodeKeepsTheUsedFields :
    decode 0xFFFFFFFF00000072#64 = .ok (.frameFill 0xFFFFFFFF#32) ∧
    ∃ r ∈ opcodeTable, r.op = opField 0xFFFFFFFF00000072#64 := by decide
theorem witness_CommandsAreSelectedByOpcodeAndReservedBits :
    (∃ r ∈ opcodeTable, 0xFFFFFFFF000001F5#64 &&& commandMask = r.pattern) ∧
    decode 0xFFFFFFFF000001F5#64 = .ok .render := by decide
theorem witness_UnusedFieldsAreIgnored :
    opField 0xFFFFFFFF00000072#64 = opField 0xFFFFFFFF00000002#64 ∧
    rsvField 0xFFFFFFFF00000072#64 = rsvField 0xFFFFFFFF00000002#64 ∧
    ∀ r ∈ opcodeTable, r.op = opField 0xFFFFFFFF00000002#64 →
      (r.usesIdx = true → idxField 0xFFFFFFFF00000072#64 = idxField 0xFFFFFFFF00000002#64) ∧
      (r.usesDat = true → datField 0xFFFFFFFF00000072#64 = datField 0xFFFFFFFF00000002#64) := by decide
theorem witness_AssemblerRefusesOnlyOperandsOutsideTheirField :
    ((31 < 32 ∧ 0xFFFFFFFF < 0x100000000) ∧ ¬ (32 < 32 ∧ 0xFFFFFFFF < 0x100000000) ∧ ¬ (31 < 32 ∧ 0x100000000 < 0x100000000)) ∧
    ((255 < 256 ∧ 255 < 256 ∧ 255 < 256) ∧ ¬ (255 < 256 ∧ 255 < 256 ∧ 256 < 256)) ∧
    assembleCommand (.frameSet 31 0xFFFFFFFF) = some 0xFFFFFFFF000001F3#64 := by decide
theorem witness_PseudoCommandsExpand : 31 < 32 ∧ 255 < 256 ∧ 0 < 256 := by decide

theorem witness_StepRunsTheDecodedCommand :
    (presenting 0xD4).rst = false ∧ (presenting 0xD4).phase = .idle ∧ (presenting 0xD4).cmd = some 0xD4#64 ∧
    decode 0xD4#64 = .ok (.frameGet 13) := by decide
theorem witness_IllegalWordIsAnsweredAndDoesNothingElse :
    (presenting 0).rst = false ∧ (presenting 0).phase = .idle ∧ (presenting 0).cmd = some 0#64 ∧
    (opField 0#64 ∈ reservedOpcodes ∨ rsvField 0#64 ≠ 0) ∧ (opField 0x205#64 ∈ reservedOpcodes ∨ rsvField 0x205#64 ≠ 0) := by
  decide
/-- The boundary words of R81: FRAME_SET 14 with bit 9 set; FRAME_SET 14; FRAME_GET 14; BUF_GET 24; and FRAME_SET 13,
which meets neither clause. -/
theorem witness_IllegalCommandWinsOverIndexOutOfRange :
    (rsvField 0x2E3#64 ≠ 0 ∨ opField 0x2E3#64 ∈ reservedOpcodes) ∧
    (rsvField 0xE3#64 = 0 ∧ opField 0xE3#64 = 0x3 ∧ 14 ≤ (idxField 0xE3#64).toNat) ∧
    (rsvField 0xE4#64 = 0 ∧ opField 0xE4#64 = 0x4 ∧ 14 ≤ (idxField 0xE4#64).toNat) ∧
    (rsvField 0x187#64 = 0 ∧ opField 0x187#64 = 0x7 ∧ 24 ≤ (idxField 0x187#64).toNat) ∧
    ¬ 14 ≤ (idxField 0xD3#64).toNat := by decide

/-- A stream at position `j` whose transmitter is ready. -/
def streaming (j : Fin 24) (mode : StreamMode) : State := { State.reset with phase := .stream j mode, outReady := true }

theorem witness_PixelTransferSendsTheWordAndAdvances :
    (∀ j : Fin 24, (streaming j .corr).rst = false ∧ (streaming j .corr).phase = .stream j .corr ∧
      (streaming j .corr).outReady = true) ∧
    (∃ k : Fin 24, k.val = (22 : Fin 24).val + 1) ∧ (23 : Fin 24).val = 23 := by
  refine ⟨fun j => ⟨rfl, rfl, rfl⟩, ⟨23, rfl⟩, rfl⟩
theorem witness_BoundaryTransferEndsTheStream :
    ∃ s : State, s.rst = false ∧ s.phase = .bound ∧ s.outReady = true :=
  ⟨{ State.reset with phase := .bound, outReady := true }, rfl, rfl, rfl⟩
theorem witness_ResponseTransferReturnsToIdle :
    ∃ s : State, s.rst = false ∧ s.phase = .resp .indexOutOfRange 0 ∧ s.rspReady = true :=
  ⟨{ State.reset with phase := .resp .indexOutOfRange 0, rspReady := true }, rfl, rfl, rfl⟩
/-- Each of the three waits, and VR11. -/
theorem witness_WaitsAreStuckStates :
    step State.reset = .fault .waitingForCommand ∧
    step { State.reset with phase := .stream 0 .corr } = .fault .waitingForTransmitter ∧
    step { State.reset with phase := .bound } = .fault .waitingForTransmitter ∧
    step { State.reset with phase := .resp .ok 0 } = .fault .waitingForCaller := ⟨rfl, rfl, rfl, rfl⟩
theorem witness_OnlyAChangedCommandWordIsRefused :
    step { State.reset with phase := .bound, cmd := some 5, agenda := [.presentCommand 6] } = .refused .callerChangedCommand := by
  rfl
theorem witness_BlockHoldsWhatItOffersUntilTheTransfer :
    ∃ s t : State, s.rst = false ∧ transferEnabled s = false ∧ step s = .next t ∧ t.rst = false ∧ s.cmd = some 5 :=
  ⟨{ State.reset with phase := .bound, cmd := some 5, agenda := [.acceptResponse] }, _, rfl, rfl, rfl, rfl, rfl⟩
theorem witness_OnlyPresentedPayloadsAreTransferred : ∃ t, step (streaming 23 .raw) = .next t ∧ t.sent ≠ [] :=
  ⟨_, rfl, by simp [pixelTransfer, streaming]⟩
theorem witness_ExactlyOneChannelIsActive : State.reset.rst = false := rfl
theorem witness_OneCommandInFlight :
    ∃ t, (streaming 5 .raw).rst = false ∧ (streaming 5 .raw).phase ≠ .idle ∧ step (streaming 5 .raw) = .next t :=
  ⟨_, rfl, by decide, rfl⟩
/-- Each kind of phase the pins are stated in, at the ends of a stream. -/
theorem witness_OutputPinsCarryTheWordOrTheBoundary :
    ((streaming 0 .corr).rst = false ∧ (streaming 0 .corr).phase = .stream 0 .corr ∧ (streaming 0 .corr).outReady = true) ∧
    ((streaming 23 .raw).rst = false ∧ (streaming 23 .raw).phase = .stream 23 .raw) ∧
    (∃ s : State, s.rst = false ∧ s.phase = .bound ∧ s.outReady = true) ∧
    (State.reset.rst = false ∧ State.reset.phase = .idle) ∧ ∃ s : State, s.rst = false ∧ s.phase = .resp .ok 0 :=
  ⟨⟨rfl, rfl, rfl⟩, ⟨rfl, rfl⟩, ⟨{ streaming 0 .raw with phase := .bound }, rfl, rfl, rfl⟩, ⟨rfl, rfl⟩,
    ⟨{ State.reset with phase := .resp .ok 0 }, rfl, rfl⟩⟩
/-- Each of the four moves, a command on an empty port and the same command again among them. -/
theorem witness_AgentMoveSetsItsOwnPin :
    (∀ m : Move, { State.reset with agenda := [m] }.rst = false ∧
      transferEnabled { State.reset with agenda := [m] } = false ∧ { State.reset with agenda := [m] }.cmd = none) ∧
    transferEnabled { State.reset with phase := .bound, cmd := some 5, agenda := [.presentCommand 5] } = false :=
  ⟨fun _ => ⟨rfl, rfl, rfl⟩, rfl⟩
theorem witness_ResetEdgeSetsTheResetValues : { streaming 5 .raw with rst := true }.rst = true := rfl
theorem witness_ResetEdgeKeepsWhatTheAgentsHold :
    ∃ t, { streaming 5 .raw with rst := true }.rst = true ∧ step { streaming 5 .raw with rst := true } = .next t :=
  ⟨_, rfl, rfl⟩

theorem witness_FrameZeroClearsTheFrame : opField 0x0000000000000001#64 = 0x1 ∧ rsvField 0x0000000000000001#64 = 0 := by decide
theorem witness_FrameFillSetsEveryEntry : opField 0x00FFFFFF00000002#64 = 0x2 ∧ rsvField 0x00FFFFFF00000002#64 = 0 := by decide
theorem witness_FrameSetWritesOneEntryOrFails :
    opField 0x000A0A0A000000D3#64 = 0x3 ∧ rsvField 0x000A0A0A000000D3#64 = 0 ∧
    (13#5).toNat < 14 ∧ 14 ≤ (14#5).toNat ∧ 14 ≤ (31#5).toNat := by decide
theorem witness_FrameGetReturnsOneEntryOrFails :
    opField 0xD4#64 = 0x4 ∧ rsvField 0xD4#64 = 0 ∧ (13 : Fin 14).val = (13#5).toNat ∧ 14 ≤ (14#5).toNat := by decide
theorem witness_BufGetReturnsOneEntryOrFails :
    opField 0x177#64 = 0x7 ∧ rsvField 0x177#64 = 0 ∧ (23 : Fin 24).val = (23#5).toNat ∧ 24 ≤ (24#5).toNat := by decide
theorem witness_CorrectReturnsTheCorrectedWord :
    opField 0xFF00FF0000000008#64 = 0x8 ∧ rsvField 0xFF00FF0000000008#64 = 0 ∧
    (0x000000FE : Word) = (0xFE : Lane).setWidth 32 := by decide
theorem witness_StatusGetReturnsErrAndTopology : opField 0x9#64 = 0x9 ∧ rsvField 0x9#64 = 0 := by decide
/-- One answer of each shape: a stream, an error response, an OK response with data. -/
theorem witness_EveryCommandIsAnswered :
    (nextOf (exec (.clear 1) State.reset)).map (·.phase) = some (.stream 0 .raw) ∧
    (nextOf (exec (.frameGet 14) State.reset)).map (·.phase) = some (.resp .indexOutOfRange 0) ∧
    (nextOf (exec (.frameGet 0) (State.reset.fillFrame 7))).map (·.phase) = some (.resp .ok 7) := by decide
theorem witness_CommandsWriteOnlyTheirStore : ∃ t, exec (.frameFill 7) State.reset = .next t ∧ t.frame ≠ State.reset.frame :=
  ⟨_, rfl, by decide⟩
theorem witness_CommandsReadOnlyTheirStore :
    (∃ t, exec (.frameFill 7) State.reset = .next t) ∧ (∀ idx, Instr.frameFill 7 ≠ .frameGet idx) ∧
    (∀ idx, Instr.frameFill 7 ≠ .bufGet idx) ∧ Instr.frameFill 7 ≠ .render :=
  ⟨⟨_, rfl⟩, fun _ => by simp, fun _ => by simp, by simp⟩
theorem witness_FrameGetAfterFrameSet :
    (13#5).toNat < 14 ∧ (0#5).toNat < 14 ∧ (∃ t, exec (.frameSet 13 7) State.reset = .next t) ∧
    (∃ u, exec (.frameGet 13) State.reset = .next u) ∧ ∃ u, exec (.frameGet 0) State.reset = .next u :=
  ⟨by decide, by decide, ⟨_, rfl⟩, ⟨_, rfl⟩, ⟨_, rfl⟩⟩
/-- One step for each clause: `ERR` kept, set by an error, and cleared by reset. -/
theorem witness_ErrIsStickyUntilReset :
    (∃ t, step { streaming 5 .raw with err := true } = .next t ∧ t.err = true) ∧
    (∃ t, step (presenting 0) = .next t ∧ (presenting 0).err = false ∧ t.err = true ∧ (presenting 0).phase = .idle ∧
      t.phase = .resp .illegalCommand 0) ∧
    (∃ t, step { State.reset with err := true, rst := true } = .next t ∧ t.err = false) :=
  ⟨⟨_, rfl, rfl⟩, ⟨_, rfl, rfl, rfl, rfl, rfl⟩, ⟨_, rfl, rfl⟩⟩

theorem witness_GammaLawsAndWhatIsNotGuaranteed : (0 : Lane).toNat ≤ (255 : Lane).toNat := by decide
theorem witness_LanesAreCorrectedIndependently : lane 0x12345678 0 = lane 0xFFFFFF78 0 := by decide
theorem witness_CorrectedWordLaws :
    lane 0xFF00FF00 0 = 0x00 ∧ lane 0xFF00FF00 3 = 0xFF ∧ ∀ k : Fin 4, (lane 0x00010203 k).toNat ≤ (lane 0x00010204 k).toNat := by
  decide

/-- Some position is unmapped, in every configuration: 14 entries cannot fill 24 positions. -/
theorem some_position_is_unmapped (c : Config) : ∃ j, c.Unmapped j := by
  by_contra h
  have all : ∀ j : Fin 24, ∃ i : Fin 14, c.M i = j := by simpa [Config.Unmapped] using h
  have := Fintype.card_le_of_surjective c.M all
  simp at this

theorem witness_RenderRemapsAndStartsTheStream : (∃ i j, Config.chip.M i = j) ∧ ∃ j, Config.chip.Unmapped j :=
  ⟨⟨0, _, rfl⟩, some_position_is_unmapped _⟩
theorem witness_RemapCopiesTheFrameInAnyOrder :
    (∃ j, configTC.Unmapped j) ∧ (List.finRange 14).reverse.Perm (List.finRange 14) :=
  ⟨some_position_is_unmapped _, List.reverse_perm _⟩
theorem witness_SecondRenderKeepsTheBuffer :
    ∃ t u, exec .render State.reset = .next t ∧ exec .render { t with phase := .idle } = .next u := ⟨_, _, rfl, rfl⟩
theorem witness_RenderOfAFilledFrame :
    (∃ t u, exec (.frameFill 0) State.reset = .next t ∧ exec .render t = .next u) ∧ ∃ j, Config.chip.Unmapped j :=
  ⟨⟨_, _, rfl, rfl⟩, some_position_is_unmapped _⟩
theorem witness_ClearDecidesTheStaleSlotsOfALaterRender :
    (∃ t u, exec (.clear 0xFF00FF00) State.reset = .next t ∧
      exec .render { t with frame := State.reset.frame, phase := .idle } = .next u) ∧
    (∃ j, Config.chip.Unmapped j) ∧ ∀ k : Fin 4, lane 0xFF00FF00 k = 0x00 ∨ lane 0xFF00FF00 k = 0xFF :=
  ⟨⟨_, _, rfl, rfl⟩, some_position_is_unmapped _, by decide⟩
/-- With the colour 0 after reset, and a step that accepts CLEAR 0x00808080. -/
theorem witness_StaleSlotsHoldTheLastClearColour :
    (∀ j : Fin 24, Config.chip.Unmapped j → (presenting 0x0080808000000006).buf[j] = 0) ∧
    (∃ t, step (presenting 0x0080808000000006) = .next t) ∧ (∃ j, Config.chip.Unmapped j) ∧
    staleColourAfter (presenting 0x0080808000000006) 0 = 0x00808080 :=
  ⟨fun j _ => by simp [presenting, State.reset], ⟨_, rfl⟩, some_position_is_unmapped _, by decide⟩

/-- A word presented after reset, with a transmitter that will accept 25 transfers and a caller that will accept the
response. -/
def cooperating (w : CmdWord) : State :=
  { presenting w with agenda := List.replicate 25 .acceptTransfer ++ [.acceptResponse] }

theorem witness_RenderSendsTheFrameAndABoundary :
    (cooperating 5).rst = false ∧ (cooperating 5).phase = .idle ∧ (cooperating 5).cmd = some 5#64 ∧
    decode 5#64 = .ok .render ∧ (cooperating 5).outReady = false ∧
    (cooperating 5).agenda = List.replicate 25 .acceptTransfer ++ [.acceptResponse] := by decide
theorem witness_ClearSendsTheColourAndABoundary :
    (cooperating 6).rst = false ∧ (cooperating 6).phase = .idle ∧ (cooperating 6).cmd = some 6#64 ∧
    decode 6#64 = .ok (.clear 0) ∧ (cooperating 6).outReady = false ∧
    (cooperating 6).agenda = List.replicate 25 .acceptTransfer ++ [.acceptResponse] := by decide
theorem witness_EveryWordGetsOneResponse :
    (cooperating 0).rst = false ∧ (cooperating 0).phase = .idle ∧ (cooperating 0).cmd = some 0#64 ∧
    (cooperating 0).outReady = false ∧ (cooperating 0).rspReady = false ∧ decode 0#64 = .error .reservedOpcode ∧
    (cooperating 0).agenda = List.replicate 25 .acceptTransfer ++ .acceptResponse :: [] := by decide
/-- A state of a raw stream that meets the invariant, and steps: position 0, one colour, nothing sent yet. -/
theorem witness_EveryStepKeepsTheInvariant : Inv (streaming 0 .raw) ∧ ∃ t, step (streaming 0 .raw) = .next t := by
  refine ⟨⟨?_, by simp [streaming], by simp [streaming], ?_, by simp [streaming]⟩, _, rfl⟩
  · intro j mode h
    obtain ⟨rfl, rfl⟩ := Phase.stream.inj h
    simp
  · intro j _ i k
    simp [streaming, State.reset]

end Sys2Proof.Tests
end

section
/-! PROOFS. The notation of colour words and the count of unmapped positions (spec 00_scope.md R6, R8, R10; 30_encoding.md
R50). -/

namespace Sys2Proof.Machine

/-- The shifts of R50 put the channels into disjoint lanes. -/
theorem urgb_eq_pack4 (r g b : Lane) : urgb r g b = pack4 0 b g r := by
  apply BitVec.eq_of_getLsbD_eq
  intro n hn
  have bit : (urgb r g b).getLsbD n =
      (!decide (n < 16) && b.getLsbD (n - 16) || !decide (n < 8) && g.getLsbD (n - 8) || r.getLsbD n) := by
    simp [urgb, hn]
  rw [bit, getLsbD_pack4]
  split_ifs with h8 h16 h24
  · simp [h8, show n < 16 by omega]
  · simp [h8, h16, BitVec.getLsbD_of_ge r n (by omega)]
  · simp [h16, BitVec.getLsbD_of_ge r n (by omega), BitVec.getLsbD_of_ge g (n - 8) (by omega)]
  · simp [BitVec.getLsbD_of_ge r n (by omega), BitVec.getLsbD_of_ge g (n - 8) (by omega),
      BitVec.getLsbD_of_ge b (n - 16) (by omega)]

/-- Settles O8: `urgb` is a packed word, and a packed word has the lanes it was packed from. -/
theorem urgbPacksTheThreeChannels : Obligations.UrgbPacksTheThreeChannels := by
  intro r g b
  rw [urgb_eq_pack4]
  exact ⟨rfl, lane_pack4 0 b g r⟩

end Sys2Proof.Machine

namespace Sys2Proof

/-- RT2, for the table in use (R8). -/
theorem Config.M_injective (c : Config) : Function.Injective c.M := c.remap_injective c.topology

/-- `UNMAPPED` is the complement of the range of `M` (R8). -/
theorem Config.filter_unmapped_eq_compl (c : Config) :
    (Finset.univ.filter fun j => c.Unmapped j) = (Finset.univ.image c.M)ᶜ := by
  ext j
  simp

/-- Settles O44: `M` is injective, so its 14 values leave 24 - 14 positions. -/
theorem tenPositionsAreUnmapped : Obligations.TenPositionsAreUnmapped := by
  intro c
  calc ((List.finRange 24).filter fun j => decide (c.Unmapped j)).length
      = (Finset.univ.filter fun j => c.Unmapped j).card := rfl
    _ = 24 - 14 := by
      rw [c.filter_unmapped_eq_compl, Finset.card_compl, Finset.card_image_of_injective _ c.M_injective]
      simp

end Sys2Proof
end

section
/-! PROOFS. What commands and steps do to the state of the block: which store a command writes and reads, `ERR`, the stale
slots, and the invariant of the phase machine (spec 10_state.md R13 to R25; 42_render.md R65, R66; 60_exceptions.md R80). -/

namespace Sys2Proof.Machine

variable {i : Instr} {w : CmdWord} {m : Move} {s t : State} {idx : BitVec 5} {dat : Word} {j : Fin 24} {mode : StreamMode}

/-! ### What a command does at its acceptance -/

/-- The nine commands do five kinds of things: fail on an index, write the frame, answer with a word, render and clear. -/
inductive CommandEffect (i : Instr) (s t : State) : Prop where
  | failed (eq : t = s.raiseError .indexOutOfRange)
  | wroteFrame (f : Frame) (writes : i = .frameZero ∨ (∃ dat, i = .frameFill dat) ∨ ∃ idx dat, i = .frameSet idx dat)
      (eq : t = ({ s with frame := f } : State).respond .ok 0)
  | answered (d : Word) (eq : t = s.respond .ok d)
  | rendered (isRender : i = .render) (eq : t = (s.setBuf (remap Config.chip s.frame s.buf)).startStream .corr)
  | cleared (dat : Word) (isClear : i = .clear dat) (eq : t = (s.fillBuf dat).startStream .raw)

theorem exec_effect (h : exec i s = .next t) : CommandEffect i s t := by
  obtain ⟨hi, ht⟩ | ⟨dat, hi, ht⟩ | ⟨idx, dat, k, hi, -, ht⟩ | ⟨_, _, -, -, ht⟩ | ⟨hi, ht⟩ | ⟨dat, hi, ht⟩ |
    ⟨_, _, -, -, ht⟩ | ⟨_, -, ht⟩ | ⟨-, ht⟩ | ⟨-, ht⟩ := exec_cases h
  · exact .wroteFrame _ (.inl hi) ht
  · exact .wroteFrame _ (.inr (.inl ⟨dat, hi⟩)) ht
  · exact .wroteFrame _ (.inr (.inr ⟨idx, dat, hi⟩)) ht
  · exact .answered _ ht
  · exact .rendered hi ht
  · exact .cleared dat hi ht
  · exact .answered _ ht
  · exact .answered _ ht
  · exact .answered _ ht
  · exact .failed ht

/-- A command writes the block's four registers and nothing else. -/
theorem exec_sameOutside (h : exec i s = .next t) : SameOutside s t := by
  cases exec_effect h with
  | failed eq | wroteFrame _ _ eq | answered _ eq | rendered _ eq | cleared _ _ eq => constructor <;> simp [eq]

theorem exec_frame_cases (h : exec i s = .next t) :
    t.frame = s.frame ∨ i = .frameZero ∨ (∃ dat, i = .frameFill dat) ∨ ∃ idx dat, i = .frameSet idx dat := by
  cases exec_effect h with
  | wroteFrame _ writes _ => exact .inr writes
  | failed eq | answered _ eq | rendered _ eq | cleared _ _ eq => exact .inl (by simp [eq])

theorem exec_buf_cases (h : exec i s = .next t) :
    t.buf = s.buf ∨ i = .render ∨ ∃ dat, i = .clear dat := by
  cases exec_effect h with
  | rendered isRender _ => exact .inr (.inl isRender)
  | cleared dat isClear _ => exact .inr (.inr ⟨dat, isClear⟩)
  | failed eq | answered _ eq | wroteFrame _ _ eq => exact .inl (by simp [eq])

/-- A command keeps `ERR` and gives no error response, or it raises the error of an index (R22, R78). -/
theorem exec_err_cases (h : exec i s = .next t) :
    (t.err = s.err ∧ ∀ st d, t.phase = .resp st d → st = .ok) ∨ t = s.raiseError .indexOutOfRange := by
  cases exec_effect h with
  | failed eq => exact .inr eq
  | wroteFrame _ _ eq | answered _ eq | rendered _ eq | cleared _ _ eq => exact .inl (by simp +contextual [eq])

/-- Settles O35, store by store from the five kinds of commands. -/
theorem commandsWriteOnlyTheirStore : Obligations.CommandsWriteOnlyTheirStore := by
  intro i s t h
  refine ⟨exec_frame_cases h, exec_buf_cases h, ?_, exec_sameOutside h⟩
  obtain ⟨herr, -⟩ | rfl := exec_err_cases h
  · exact .inl herr
  · exact .inr ⟨rfl, rfl⟩

/-! ### What a command reads -/

theorem exec_frameSet_of_some {k : Fin 14} (hk : frameIndex idx = some k) (s : State) :
    exec (.frameSet idx dat) s = .next ((s.writeFrame k dat).respond .ok 0) := by
  simp [exec, execFrameSet, hk]

theorem exec_frameSet_of_none (hk : frameIndex idx = none) (s : State) :
    exec (.frameSet idx dat) s = .next (s.raiseError .indexOutOfRange) := by
  simp [exec, execFrameSet, hk]

theorem exec_frameGet_of_some {k : Fin 14} (hk : frameIndex idx = some k) (s : State) :
    exec (.frameGet idx) s = .next (s.respond .ok (s.readFrame k)) := by
  simp [exec, execFrameGet, hk]

theorem exec_frameGet_of_none (hk : frameIndex idx = none) (s : State) :
    exec (.frameGet idx) s = .next (s.raiseError .indexOutOfRange) := by
  simp [exec, execFrameGet, hk]

theorem exec_bufGet_of_some {k : Fin 24} (hk : bufIndex idx = some k) (s : State) :
    exec (.bufGet idx) s = .next (s.respond .ok (s.readBuf k)) := by
  simp [exec, execBufGet, hk]

theorem exec_bufGet_of_none (hk : bufIndex idx = none) (s : State) :
    exec (.bufGet idx) s = .next (s.raiseError .indexOutOfRange) := by
  simp [exec, execBufGet, hk]

/-- RENDER apart, a command's answer depends on `ERR`, for FRAME_GET on the frame and for BUF_GET on the buffer (R13, R16):
a state `s'` that agrees with `s` on these is answered alike, and where the stores agreed before they agree afterwards. -/
theorem exec_of_same_reads {s' : State} (h : exec i s = .next t) (hrender : i ≠ .render) (herr : s'.err = s.err)
    (hframe : ∀ idx, i = .frameGet idx → s'.frame = s.frame) (hbuf : ∀ idx, i = .bufGet idx → s'.buf = s.buf) :
    ∃ t', exec i s' = .next t' ∧ t'.err = t.err ∧ t'.phase = t.phase ∧
      (s'.frame = s.frame → t'.frame = t.frame) ∧ (s'.buf = s.buf → t'.buf = t.buf) := by
  obtain ⟨rfl, rfl⟩ | ⟨_, rfl, rfl⟩ | ⟨_, _, _, rfl, hk, rfl⟩ | ⟨idx, _, rfl, hk, rfl⟩ | ⟨hi, -⟩ | ⟨_, rfl, rfl⟩ |
    ⟨idx, _, rfl, hk, rfl⟩ | ⟨_, rfl, rfl⟩ | ⟨rfl, rfl⟩ |
    ⟨⟨_, _, rfl, hk⟩ | ⟨_, rfl, hk⟩ | ⟨_, rfl, hk⟩, rfl⟩ := exec_cases h
  · exact ⟨_, rfl, by simp [herr]⟩
  · exact ⟨_, rfl, by simp [herr]⟩
  · exact ⟨_, exec_frameSet_of_some hk _, by simp +contextual [herr]⟩
  · exact ⟨_, exec_frameGet_of_some hk _, by simp [herr, hframe idx rfl]⟩
  · exact absurd hi hrender
  · exact ⟨_, rfl, by simp [herr]⟩
  · exact ⟨_, exec_bufGet_of_some hk _, by simp [herr, hbuf idx rfl]⟩
  · exact ⟨_, rfl, by simp [herr]⟩
  · exact ⟨_, rfl, by simp [herr]⟩
  · exact ⟨_, exec_frameSet_of_none hk _, by simp⟩
  · exact ⟨_, exec_frameGet_of_none hk _, by simp⟩
  · exact ⟨_, exec_bufGet_of_none hk _, by simp⟩

/-- Settles O36: the two runs differ only in a store the command does not read. -/
theorem commandsReadOnlyTheirStore : Obligations.CommandsReadOnlyTheirStore := by
  intro i s t f b h
  refine ⟨fun hget hrender => ?_, fun hget hrender => ?_⟩
  · obtain ⟨t', hexec, herr, hphase, -, hbuf⟩ := exec_of_same_reads (s' := { s with frame := f }) h hrender rfl
      (fun idx hi => absurd hi (hget idx)) fun _ _ => rfl
    exact ⟨t', hexec, hbuf rfl, herr, hphase⟩
  · obtain ⟨t', hexec, herr, hphase, hframe, -⟩ := exec_of_same_reads (s' := { s with buf := b }) h hrender rfl
      (fun _ _ => rfl) fun idx hi => absurd hi (hget idx)
    exact ⟨t', hexec, hframe rfl, herr, hphase⟩

/-! ### Reset and the agents outside -/

/-- Settles O24 (R25). -/
theorem resetStateHoldsTheResetValues : Obligations.ResetStateHoldsTheResetValues := by
  refine ⟨fun i => ?_, fun j => ?_, rfl, rfl⟩ <;> simp [State.reset]

theorem step_of_rst (hr : s.rst = true) : step s = .next (resetEdge s) := by
  simp [step, machineStep, hr]

@[simp] theorem resetEdge_buf (s : State) : (resetEdge s).buf = Vector.replicate 24 0 := rfl
@[simp] theorem resetEdge_err (s : State) : (resetEdge s).err = false := rfl
@[simp] theorem resetEdge_phase (s : State) : (resetEdge s).phase = .idle := rfl

/-- An agent's move reaches the pins only: the block and what was sent stay (R40). -/
theorem agentMove_keeps_block_and_sent {rest : List Move} (h : agentMove m { s with agenda := rest } = .next t) :
    SameBlock s t ∧ t.sent = s.sent := by
  obtain ⟨_, -, -, rfl⟩ | ⟨-, rfl⟩ | ⟨-, rfl⟩ | ⟨-, rfl⟩ := agentMove_cases h <;> exact ⟨⟨rfl, rfl, rfl, rfl⟩, rfl⟩

/-! ### `ERR` (R22, R80) -/

theorem runWord_err_cases (h : runWord w s = .next t) :
    (t.err = s.err ∧ ∀ st d, t.phase = .resp st d → st = .ok) ∨ ∃ e, t = s.raiseError e := by
  obtain ⟨-, ht⟩ | ⟨i, -, hi⟩ := runWord_cases h
  · exact .inr ⟨_, ht⟩
  · exact (exec_err_cases hi).imp id fun ht => ⟨_, ht⟩

/-- Without reset a step keeps `ERR`, and then answers no error to a command; or it accepts a command with an error. -/
theorem step_err_cases (h : step s = .next t) (hr : s.rst = false) :
    (t.err = s.err ∧ (s.phase = .idle → ∀ st d, t.phase = .resp st d → st = .ok)) ∨
    (s.phase = .idle ∧ t.err = true ∧ ∃ e : BlockError, t.phase = .resp e.code 0) := by
  obtain ⟨hr', -⟩ | ⟨-, hp, w, -, hw⟩ | ⟨-, -, j, mode, hp, rfl⟩ | ⟨-, -, hp, rfl⟩ | ⟨-, -, st, d, hp, rfl⟩ |
    ⟨-, -, m, rest, -, hm⟩ := step_cases h
  · simp [hr] at hr'
  · obtain ⟨herr, hok⟩ | ⟨e, rfl⟩ := runWord_err_cases hw
    · exact .inl ⟨herr, fun _ => hok⟩
    · exact .inr ⟨hp, rfl, e, rfl⟩
  · exact .inl ⟨rfl, by simp [hp]⟩
  · exact .inl ⟨rfl, by simp [hp]⟩
  · exact .inl ⟨rfl, by simp [hp]⟩
  · obtain ⟨block, -⟩ := agentMove_keeps_block_and_sent hm
    exact .inl ⟨block.err, fun hp => by simp [block.phase, hp]⟩

/-- Settles O38, clause by clause from the two things a step can do to `ERR`. -/
theorem errIsStickyUntilReset : Obligations.ErrIsStickyUntilReset := by
  intro s t h
  refine ⟨fun hr he => ?_, fun hr he ht => ?_, fun hr hp st d htp hst => ?_, fun hr => ?_⟩
  · obtain ⟨herr, -⟩ | ⟨-, ht, -⟩ := step_err_cases h hr
    · rw [herr, he]
    · exact ht
  · obtain ⟨herr, -⟩ | ⟨hp, -, e, hpe⟩ := step_err_cases h hr
    · simp [herr, he] at ht
    · cases e with
      | indexOutOfRange => exact ⟨hp, .inl hpe⟩
      | illegalCommand => exact ⟨hp, .inr hpe⟩
  · obtain ⟨-, hok⟩ | ⟨-, ht, -⟩ := step_err_cases h hr
    · exact absurd (hok hp st d htp) hst
    · exact ht
  · obtain rfl : resetEdge s = t := by simpa [step_of_rst hr] using h
    exact resetEdge_err s

/-! ### The stale slots (R17) -/

theorem acceptedCommand_of_cmd (hr : s.rst = false) (hp : s.phase = .idle) (hc : s.cmd = some w) :
    acceptedCommand s = (decode w).toOption := by
  simp [acceptedCommand, hr, hp, hc]

theorem acceptedCommand_of_phase_ne_idle (hp : s.phase ≠ .idle) : acceptedCommand s = none := by
  unfold acceptedCommand
  split
  · rfl
  · split
    · contradiction
    · rfl

theorem acceptedCommand_of_not_enabled (he : transferEnabled s = false) : acceptedCommand s = none := by
  by_cases hp : s.phase = .idle
  · have hc : s.cmd = none := by simpa [transferEnabled, hp] using he
    simp [acceptedCommand, hc]
  · exact acceptedCommand_of_phase_ne_idle hp

/-- Without reset a step runs the command it accepts, or leaves the buffer alone. -/
theorem step_buf_cases (h : step s = .next t) (hr : s.rst = false) :
    (∃ i, acceptedCommand s = some i ∧ exec i s.takeCommand = .next t) ∨
    (acceptedCommand s = none ∧ t.buf = s.buf) := by
  obtain ⟨hr', -⟩ | ⟨-, hp, w, hc, hw⟩ | ⟨-, -, j, mode, hp, rfl⟩ | ⟨-, -, hp, rfl⟩ | ⟨-, -, st, d, hp, rfl⟩ |
    ⟨-, he, m, rest, -, hm⟩ := step_cases h
  · simp [hr] at hr'
  · have accepted := acceptedCommand_of_cmd hr hp hc
    obtain ⟨⟨e, hd⟩, rfl⟩ | ⟨i, hd, hi⟩ := runWord_cases hw
    · exact .inr ⟨by rw [accepted, hd]; rfl, rfl⟩
    · exact .inl ⟨i, by rw [accepted, hd]; rfl, hi⟩
  · exact .inr ⟨acceptedCommand_of_phase_ne_idle (by simp [hp]), rfl⟩
  · exact .inr ⟨acceptedCommand_of_phase_ne_idle (by simp [hp]), rfl⟩
  · exact .inr ⟨acceptedCommand_of_phase_ne_idle (by simp [hp]), rfl⟩
  · obtain ⟨block, -⟩ := agentMove_keeps_block_and_sent hm
    exact .inr ⟨acceptedCommand_of_not_enabled he, block.buf⟩

theorem staleColourAfter_of_rst (hr : s.rst = true) (v : Word) : staleColourAfter s v = 0 := by
  simp [staleColourAfter, hr]

theorem staleColourAfter_of_clear (hr : s.rst = false) (ha : acceptedCommand s = some (.clear dat)) (v : Word) :
    staleColourAfter s v = dat := by
  simp [staleColourAfter, hr, ha]

theorem staleColourAfter_of_not_clear (hr : s.rst = false) (ha : ∀ dat, acceptedCommand s ≠ some (.clear dat))
    (v : Word) : staleColourAfter s v = v := by
  unfold staleColourAfter
  rw [if_neg (by simp [hr])]
  split
  · exact absurd ‹_› (ha _)
  · rfl

theorem exec_clear_buf (h : exec (.clear dat) s = .next t) : t.buf = Vector.replicate 24 dat := by
  obtain rfl : (s.fillBuf dat).startStream .raw = t := by simpa [exec, execClear] using h
  rfl

theorem exec_render_buf (h : exec .render s = .next t) : t.buf = remap Config.chip s.frame s.buf := by
  obtain rfl : (s.setBuf (remap Config.chip s.frame s.buf)).startStream .corr = t := by
    simpa [exec, execRender] using h
  rfl

/-- RENDER leaves the unmapped entries alone (R65). -/
theorem remap_get_unmapped (c : Config) (frame : Frame) (buf : Buf) (hj : c.Unmapped j) :
    (remap c frame buf)[j] = buf[j] :=
  remapAlong_get_of_unreached c frame (List.finRange 14) buf j fun k _ => hj k

/-- RENDER puts every frame entry at its mapped position (R65). -/
theorem remap_get_mapped (c : Config) (frame : Frame) (buf : Buf) (k : Fin 14) :
    (remap c frame buf)[c.M k] = frame[k] :=
  remapAlong_get_of_mem c frame (List.finRange 14) buf k (List.mem_finRange k)

/-- CLEAR apart, no command writes an unmapped entry: the remap of RENDER does not reach it. -/
theorem exec_keeps_unmapped_buf (h : exec i s = .next t) (hi : ∀ dat, i ≠ .clear dat) (hj : Config.chip.Unmapped j) :
    t.buf[j] = s.buf[j] := by
  obtain hbuf | rfl | ⟨dat, rfl⟩ := exec_buf_cases h
  · rw [hbuf]
  · rw [exec_render_buf h]
    exact remap_get_unmapped _ _ _ hj
  · exact absurd rfl (hi dat)

/-- Settles O48: a reset edge, an accepted CLEAR, any other accepted command, and a step that accepts none. -/
theorem staleSlotsHoldTheLastClearColour : Obligations.StaleSlotsHoldTheLastClearColour := by
  intro s t colour hs h j hj
  cases hr : s.rst with
  | true =>
    obtain rfl : resetEdge s = t := by simpa [step_of_rst hr] using h
    simp [staleColourAfter_of_rst hr]
  | false =>
    obtain ⟨i, ha, hi⟩ | ⟨ha, hbuf⟩ := step_buf_cases h hr
    · by_cases hclear : ∃ dat, i = .clear dat
      · obtain ⟨dat, rfl⟩ := hclear
        simp [exec_clear_buf hi, staleColourAfter_of_clear hr ha]
      · have hne : ∀ dat, i ≠ .clear dat := fun dat e => hclear ⟨dat, e⟩
        rw [exec_keeps_unmapped_buf hi hne hj, staleColourAfter_of_not_clear hr (by simpa [ha] using hne)]
        exact hs j hj
    · rw [hbuf, staleColourAfter_of_not_clear hr (by simp [ha])]
      exact hs j hj

/-! ### The invariant of the phase machine -/

theorem inv_of_idle (hp : s.phase = .idle) : Inv s := by
  constructor <;> simp [hp]

theorem inv_of_resp {st : Status} {d : Word} (hp : s.phase = .resp st d) (he : st ≠ .ok → s.err = true ∧ d = 0) :
    Inv s where
  pixelsSent := by simp [hp]
  allPixelsSent := by simp [hp]
  remapHolds := by simp [hp]
  oneColour := by simp [hp]
  errorResponse st' d' hp' hst := by
    obtain ⟨rfl, rfl⟩ : st = st' ∧ d = d' := by simpa [hp] using hp'
    exact he hst

theorem inv_of_raiseError (s : State) (e : BlockError) : Inv (s.raiseError e) :=
  inv_of_resp (st := e.code) (d := 0) (by simp) (by simp)

theorem inv_of_respond_ok (s : State) (d : Word) : Inv (s.respond .ok d) :=
  inv_of_resp (st := .ok) (d := d) (by simp) (by simp)

theorem inv_of_bound (hp : s.phase = .bound) (hsent : pixelTransfers Config.chip mode s.buf <:+ s.sent) : Inv s where
  pixelsSent := by simp [hp]
  allPixelsSent _ := ⟨mode, hsent⟩
  remapHolds := by simp [hp]
  oneColour := by simp [hp]
  errorResponse := by simp [hp]

/-- What the buffer holds during a stream of this kind (R65, R71). -/
def StreamSource (mode : StreamMode) (s : State) : Prop :=
  match mode with
  | .corr => ∀ i : Fin 14, s.buf[Config.chip.M i] = s.frame[i]
  | .raw => ∀ i k : Fin 24, s.buf[i] = s.buf[k]

theorem streamSource_corr_iff : StreamSource .corr s ↔ ∀ i : Fin 14, s.buf[Config.chip.M i] = s.frame[i] := Iff.rfl

theorem streamSource_raw_iff : StreamSource .raw s ↔ ∀ i k : Fin 24, s.buf[i] = s.buf[k] := Iff.rfl

theorem StreamSource.of_same_stores (h : StreamSource mode s) (hframe : t.frame = s.frame) (hbuf : t.buf = s.buf) :
    StreamSource mode t := by
  cases mode with
  | corr => rwa [streamSource_corr_iff, hframe, hbuf]
  | raw => rwa [streamSource_raw_iff, hbuf]

theorem inv_of_stream (hp : s.phase = .stream j mode)
    (hsent : (pixelTransfers Config.chip mode s.buf).take j.val <:+ s.sent) (hsource : StreamSource mode s) : Inv s where
  pixelsSent j' mode' hp' := by
    obtain ⟨rfl, rfl⟩ : j = j' ∧ mode = mode' := by simpa [hp] using hp'
    exact hsent
  allPixelsSent := by simp [hp]
  remapHolds j' hp' := by
    obtain ⟨-, rfl⟩ : j = j' ∧ mode = .corr := by simpa [hp] using hp'
    exact hsource
  oneColour j' hp' := by
    obtain ⟨-, rfl⟩ : j = j' ∧ mode = .raw := by simpa [hp] using hp'
    exact hsource
  errorResponse := by simp [hp]

theorem Inv.streamSource (h : Inv s) (hp : s.phase = .stream j mode) : StreamSource mode s := by
  cases mode with
  | corr => exact h.remapHolds j hp
  | raw => exact h.oneColour j hp

/-- The invariant speaks of the block and of what was sent. -/
theorem Inv.of_sameBlock (h : Inv s) (block : SameBlock s t) (hsent : t.sent = s.sent) : Inv t := by
  obtain ⟨hframe, hbuf, herr, hphase⟩ := block
  obtain ⟨hpixels, hall, hremap, hcolour, herror⟩ := h
  constructor <;> simpa only [hframe, hbuf, herr, hphase, hsent]

theorem length_pixelTransfers (c : Config) (mode : StreamMode) (buf : Buf) : (pixelTransfers c mode buf).length = 24 := by
  simp [pixelTransfers]

/-- The words of the positions up to `j` are those before `j` and then the word of `j` (R35). -/
theorem take_succ_pixelTransfers (c : Config) (mode : StreamMode) (buf : Buf) (j : Fin 24) :
    (pixelTransfers c mode buf).take (j.val + 1) =
      (pixelTransfers c mode buf).take j.val ++ [Transfer.pixel (streamWord c mode buf[j])] := by
  have hj : j.val < (pixelTransfers c mode buf).length := by simp [length_pixelTransfers]
  rw [List.take_succ_eq_append_getElem hj]
  simp [pixelTransfers]

/-- An accepted command or illegal word starts a stream of which nothing is sent yet, or a response. -/
theorem inv_of_commandEffect (h : CommandEffect i s t) : Inv t := by
  cases h with
  | failed eq => subst eq; exact inv_of_raiseError s _
  | wroteFrame _ _ eq => subst eq; exact inv_of_respond_ok _ _
  | answered _ eq => subst eq; exact inv_of_respond_ok _ _
  | rendered _ eq =>
    have hsource : StreamSource .corr t :=
      streamSource_corr_iff.mpr fun k => by simpa [eq] using remap_get_mapped Config.chip s.frame s.buf k
    exact inv_of_stream (j := 0) (by simp [eq]) (by simp) hsource
  | cleared dat _ eq =>
    have hsource : StreamSource .raw t := streamSource_raw_iff.mpr fun _ _ => by simp [eq]
    exact inv_of_stream (j := 0) (by simp [eq]) (by simp) hsource

theorem inv_of_runWord (h : runWord w s = .next t) : Inv t := by
  obtain ⟨-, rfl⟩ | ⟨i, -, hi⟩ := runWord_cases h
  · exact inv_of_raiseError s _
  · exact inv_of_commandEffect (exec_effect hi)

theorem phaseAfterPixel_of_lt (hj : j.val < 23) (mode : StreamMode) :
    phaseAfterPixel j mode = .stream ⟨j.val + 1, by omega⟩ mode := by
  simp [phaseAfterPixel, hj]

theorem phaseAfterPixel_of_last (hj : ¬ j.val < 23) (mode : StreamMode) : phaseAfterPixel j mode = .bound := by
  simp [phaseAfterPixel, hj]

/-- A pixel transfer adds the word of its position to those sent, and leaves what the stream is read from. -/
theorem inv_of_pixelTransfer (h : Inv s) (hp : s.phase = .stream j mode) :
    Inv (pixelTransfer Config.chip j mode s) := by
  have hsent : (pixelTransfers Config.chip mode s.buf).take (j.val + 1) <:+
      s.sent ++ [Transfer.pixel (streamWord Config.chip mode s.buf[j])] := by
    rw [take_succ_pixelTransfers]
    exact List.suffix_append_self_iff.mpr (h.pixelsSent j mode hp)
  have hsource : StreamSource mode (pixelTransfer Config.chip j mode s) := (h.streamSource hp).of_same_stores rfl rfl
  by_cases hj : j.val < 23
  · exact inv_of_stream (phaseAfterPixel_of_lt hj mode) (by simpa [pixelTransfer] using hsent) hsource
  · rw [List.take_of_length_le (by rw [length_pixelTransfers]; omega)] at hsent
    exact inv_of_bound (phaseAfterPixel_of_last hj mode) (by simpa [pixelTransfer] using hsent)

/-- Settles O52, one lemma per kind of step. -/
theorem everyStepKeepsTheInvariant : Obligations.EveryStepKeepsTheInvariant := by
  intro s t hs h
  obtain ⟨-, rfl⟩ | ⟨-, -, w, -, hw⟩ | ⟨-, -, j, mode, hp, rfl⟩ | ⟨-, -, -, rfl⟩ | ⟨-, -, st, d, -, rfl⟩ |
    ⟨-, -, m, rest, -, hm⟩ := step_cases h
  · exact inv_of_idle rfl
  · exact inv_of_runWord hw
  · exact inv_of_pixelTransfer hs hp
  · exact inv_of_respond_ok _ _
  · exact inv_of_idle rfl
  · obtain ⟨block, hsent⟩ := agentMove_keeps_block_and_sent hm
    exact hs.of_sameBlock block hsent

end Sys2Proof.Machine
end

section
/-! PROOFS. The stores between commands: what FRAME_GET reads after FRAME_SET, what a second RENDER writes, and that no
other command comes between a command and its response (spec 20_memory.md R33, R34; 70_reset_and_hazards.md R97). -/

namespace Sys2Proof.Machine

variable {idx : BitVec 5} {w : CmdWord} {m : Move} {s t : State}

/-! ### Reading back what was written -/

theorem frameIndex_of_lt (h : idx.toNat < 14) : frameIndex idx = some ⟨idx.toNat, h⟩ :=
  (frameIndex_eq_some idx _).mpr rfl

/-- Settles O37: reading a vector's entry after setting one. -/
theorem frameGetAfterFrameSet : Obligations.FrameGetAfterFrameSet := by
  intro i k dat s t u hi hk hset hget
  obtain rfl : (s.writeFrame ⟨i.toNat, hi⟩ dat).respond .ok 0 = t := by
    simpa [exec_frameSet_of_some (frameIndex_of_lt hi)] using hset
  obtain rfl : s.respond .ok (s.readFrame ⟨k.toNat, hk⟩) = u := by
    simpa [exec_frameGet_of_some (frameIndex_of_lt hk)] using hget
  refine ⟨_, exec_frameGet_of_some (frameIndex_of_lt hk) _, ?_⟩
  by_cases hki : k = i
  · simp [hki]
  · have hne : i.toNat ≠ k.toNat := fun e => hki (BitVec.eq_of_toNat_eq e).symm
    simp [hki, hne]

/-- The remap of a buffer that already holds the frame writes the same values (R33). -/
theorem remap_remap (c : Config) (frame : Frame) (buf : Buf) :
    remap c frame (remap c frame buf) = remap c frame buf := by
  have entry (j : Fin 24) : (remap c frame (remap c frame buf))[j] = (remap c frame buf)[j] := by
    by_cases hj : c.Unmapped j
    · exact remap_get_unmapped c frame _ hj
    · obtain ⟨i, rfl⟩ : ∃ i, c.M i = j := by simpa [Config.Unmapped] using hj
      rw [remap_get_mapped, remap_get_mapped]
  exact Vector.ext fun j hj => entry ⟨j, hj⟩

theorem exec_render (s : State) :
    exec .render s = .next ((s.setBuf (remap Config.chip s.frame s.buf)).startStream .corr) := rfl

/-- Settles O45: the remap is idempotent, and RENDER leaves the frame it reads. -/
theorem secondRenderKeepsTheBuffer : Obligations.SecondRenderKeepsTheBuffer := by
  intro s t u ht hu
  obtain rfl := Host.Outcome.next.inj ((exec_render s).symm.trans ht)
  obtain rfl := Host.Outcome.next.inj ((exec_render _).symm.trans hu)
  simp [State.setBuf, State.setPhase, remap_remap]

/-! ### One command at a time -/

/-- A presented word waits on the port whatever the agents outside do (R41 item 2). -/
theorem agentMove_keeps_waiting_cmd (h : agentMove m s = .next t) (hc : s.cmd = some w) : t.cmd = some w := by
  obtain ⟨w', -, hc', rfl⟩ | ⟨-, rfl⟩ | ⟨-, rfl⟩ | ⟨-, rfl⟩ := agentMove_cases h
  · simpa [hc, eq_comm] using hc'
  · exact hc
  · exact hc
  · exact hc

/-- Settles O21: outside IDLE a step is a transfer on another channel or a move of an agent. -/
theorem oneCommandInFlight : Obligations.OneCommandInFlight := by
  intro s t hr hp h
  refine ⟨by simp [cmdReady, hp], ?_⟩
  obtain ⟨hr', -⟩ | ⟨-, hidle, -⟩ | ⟨-, -, j, mode, -, rfl⟩ | ⟨-, -, -, rfl⟩ | ⟨-, -, st, d, -, rfl⟩ |
    ⟨-, -, m, rest, -, hm⟩ := step_cases h
  · simp [hr] at hr'
  · exact absurd hidle hp
  · exact ⟨rfl, rfl, rfl, fun _ hc => hc⟩
  · exact ⟨rfl, rfl, rfl, fun _ hc => hc⟩
  · exact ⟨rfl, rfl, rfl, fun _ hc => hc⟩
  · obtain ⟨block, -⟩ := agentMove_keeps_block_and_sent hm
    exact ⟨block.frame, block.buf, block.err, fun _ hc => agentMove_keeps_waiting_cmd hm hc⟩

end Sys2Proof.Machine
end

section
/-! PROOFS. The output stream of RENDER and CLEAR: one transfer, the 24 words of a stream, and the two whole commands under
a transmitter that accepts every transfer (spec 20_memory.md R35; 42_render.md R66, R69, R71). -/

namespace Sys2Proof.Machine

variable {i : Instr} {w : CmdWord} {s t : State} {j : Fin 24} {mode : StreamMode} {rest : List Move}

/-! ### One step of each kind -/

theorem step_of_pixel (hr : s.rst = false) (hp : s.phase = .stream j mode) (ho : s.outReady = true) :
    step s = .next (pixelTransfer Config.chip j mode s) := by
  simp [step, machineStep, hr, hp, ho]

theorem step_of_boundary (hr : s.rst = false) (hp : s.phase = .bound) (ho : s.outReady = true) :
    step s = .next (boundaryTransfer s) := by
  simp [step, machineStep, hr, hp, ho]

theorem step_of_command (hr : s.rst = false) (hp : s.phase = .idle) (hc : s.cmd = some w) (hd : decode w = .ok i) :
    step s = exec i s.takeCommand := by
  simp [step, machineStep, runWord, hr, hp, hc, hd]

theorem step_of_acceptTransfer (hr : s.rst = false) (he : transferEnabled s = false)
    (ha : s.agenda = .acceptTransfer :: rest) : step s = .next { s with agenda := rest, outReady := true } := by
  simp [step_of_not_enabled hr he, agentsStep, ha, agentMove]

/-- Settles O13: the step is the pixel transfer, whose fields are read off. -/
theorem pixelTransferSendsTheWordAndAdvances : Obligations.PixelTransferSendsTheWordAndAdvances := by
  intro s j mode hr hp ho
  refine ⟨_, step_of_pixel hr hp ho, ?_, fun k hk => ?_, fun hj => ?_, rfl, rfl, rfl, hr, rfl, rfl, rfl, rfl, rfl⟩
  · cases mode <;> rfl
  · rw [show k = ⟨j.val + 1, by omega⟩ from Fin.ext hk]
    exact phaseAfterPixel_of_lt (by omega) mode
  · exact phaseAfterPixel_of_last (by omega) mode

/-! ### Runs -/

theorem run_succ_of_step (h : step s = .next t) (k : Nat) : run (k + 1) s = run k t := by
  simp [run, h]

theorem run_one (s : State) : run 1 s = step s := by
  unfold run
  cases step s <;> rfl

/-- A run goes on from where its first part ends. -/
theorem run_add {k : Nat} (h : run k s = .next t) (n : Nat) : run (k + n) s = run n t := by
  induction k generalizing s with
  | zero =>
    obtain rfl : s = t := by simpa [run] using h
    rw [Nat.zero_add]
  | succ k ih =>
    cases hs : step s with
    | next u =>
      rw [run_succ_of_step hs] at h
      rw [Nat.succ_add, run_succ_of_step hs, ih h]
    | fault f => simp [run, hs] at h
    | refused r => simp [run, hs] at h

/-- The transmitter's move comes first, and its transfer follows (log 5). -/
theorem run_two_of_acceptTransfer (hr : s.rst = false) (he : transferEnabled s = false)
    (ha : s.agenda = .acceptTransfer :: rest) : run 2 s = step { s with agenda := rest, outReady := true } := by
  rw [run_succ_of_step (step_of_acceptTransfer hr he ha), run_one]

theorem run_two_of_pixel (hr : s.rst = false) (ho : s.outReady = false) (hp : s.phase = .stream j mode)
    (ha : s.agenda = .acceptTransfer :: rest) :
    run 2 s = .next { s with
      phase := phaseAfterPixel j mode
      agenda := rest
      sent := s.sent ++ [.pixel (streamWord Config.chip mode s.buf[j])] } := by
  rw [run_two_of_acceptTransfer hr (by simp [transferEnabled, hp, ho]) ha,
    step_of_pixel (s := { s with agenda := rest, outReady := true }) hr hp rfl]
  simp [pixelTransfer, State.send, State.setPhase, ho]

theorem run_two_of_boundary (hr : s.rst = false) (ho : s.outReady = false) (hp : s.phase = .bound)
    (ha : s.agenda = .acceptTransfer :: rest) :
    run 2 s = .next { s with phase := .resp .ok 0, agenda := rest, sent := s.sent ++ [.boundary] } := by
  rw [run_two_of_acceptTransfer hr (by simp [transferEnabled, hp, ho]) ha,
    step_of_boundary (s := { s with agenda := rest, outReady := true }) hr hp rfl]
  simp [boundaryTransfer, State.send, State.setPhase, ho]

/-! ### A whole stream -/

/-- The phase of a stream after its first `n` words (R66). -/
def streamPhase (mode : StreamMode) (n : Nat) : Phase :=
  if h : n < 24 then .stream ⟨n, h⟩ mode else .bound

/-- `s` once a stream over its buffer has sent its first `n` words, with `rest` to come of the agents outside. -/
def State.streamed (s : State) (mode : StreamMode) (n : Nat) (rest : List Move) : State :=
  { s with
    phase := streamPhase mode n
    agenda := rest
    sent := s.sent ++ (pixelTransfers Config.chip mode s.buf).take n }

theorem streamPhase_of_lt (mode : StreamMode) (j : Fin 24) : streamPhase mode j.val = .stream j mode := by
  simp [streamPhase]

theorem phaseAfterPixel_eq_streamPhase (j : Fin 24) (mode : StreamMode) :
    phaseAfterPixel j mode = streamPhase mode (j.val + 1) := by
  by_cases hj : j.val < 23
  · simp [phaseAfterPixel_of_lt hj, streamPhase, hj]
  · simp [phaseAfterPixel_of_last hj, streamPhase, show ¬ j.val + 1 < 24 by omega]

theorem streamed_zero (hp : s.phase = .stream 0 mode) (ha : s.agenda = rest) : s.streamed mode 0 rest = s := by
  simp [State.streamed, streamPhase, ← hp, ← ha]

/-- The next word of a stream: the transmitter's move, then the transfer. -/
theorem run_two_of_streamed (hr : s.rst = false) (ho : s.outReady = false) (j : Fin 24) :
    run 2 (s.streamed mode j.val (.acceptTransfer :: rest)) = .next (s.streamed mode (j.val + 1) rest) := by
  rw [run_two_of_pixel (s := s.streamed ..) hr ho (streamPhase_of_lt mode j) rfl]
  simp [State.streamed, phaseAfterPixel_eq_streamPhase, take_succ_pixelTransfers]

/-- The first `n` words of a stream, two steps each, by induction on `n`. -/
theorem run_streamed (hr : s.rst = false) (ho : s.outReady = false) (n : Nat) (hn : n ≤ 24) (rest : List Move) :
    run (2 * n) (s.streamed mode 0 (List.replicate n .acceptTransfer ++ rest)) = .next (s.streamed mode n rest) := by
  induction n generalizing rest with
  | zero => rfl
  | succ n ih =>
    rw [List.replicate_succ', List.append_assoc, Nat.mul_succ, run_add (ih (by omega) _)]
    exact run_two_of_streamed hr ho ⟨n, hn⟩

/-- A stream from its first word to its response, under a transmitter that accepts its 25 transfers. -/
theorem run_stream (hr : s.rst = false) (ho : s.outReady = false) (hp : s.phase = .stream 0 mode)
    (ha : s.agenda = List.replicate 25 .acceptTransfer ++ rest) :
    run 50 s = .next { s with
      phase := .resp .ok 0
      agenda := rest
      sent := s.sent ++ pixelTransfers Config.chip mode s.buf ++ [.boundary] } := by
  have hwords : run 48 s = .next (s.streamed mode 24 (.acceptTransfer :: rest)) := by
    have h := run_streamed (mode := mode) hr ho 24 le_rfl (.acceptTransfer :: rest)
    rwa [streamed_zero hp (by rw [ha]; rfl)] at h
  have hall : (pixelTransfers Config.chip mode s.buf).take 24 = pixelTransfers Config.chip mode s.buf :=
    List.take_of_length_le (by rw [length_pixelTransfers])
  rw [run_add hwords 2, run_two_of_boundary (s := s.streamed ..) hr ho rfl rfl]
  simp [State.streamed, hall]

/-! ### Whole commands -/

/-- A command that puts `b` into the buffer and starts a stream, from its acceptance to its response. -/
theorem run_command_with_stream {b : Buf} (hr : s.rst = false) (hp : s.phase = .idle) (hc : s.cmd = some w)
    (hd : decode w = .ok i) (ho : s.outReady = false) (ha : s.agenda = List.replicate 25 .acceptTransfer ++ rest)
    (hi : exec i s.takeCommand = .next ((s.takeCommand.setBuf b).startStream mode)) :
    ∃ t, run 51 s = .next t ∧ t.buf = b ∧ t.sent = s.sent ++ pixelTransfers Config.chip mode b ++ [.boundary] ∧
      t.phase = .resp .ok 0 ∧ t.frame = s.frame ∧ t.err = s.err ∧ t.responses = s.responses ∧
      t.rst = false ∧ t.cmd = none ∧ t.rspReady = s.rspReady ∧ t.outReady = false ∧ t.agenda = rest := by
  have hstep := (step_of_command hr hp hc hd).trans hi
  exact ⟨_, (run_succ_of_step hstep 50).trans (run_stream hr ho rfl ha), rfl, rfl, rfl, rfl, rfl, rfl, hr, rfl, rfl, ho,
    rfl⟩

/-- The words of a stream are those of the buffer, one by one. -/
theorem pixelTransfers_eq_map (c : Config) (mode : StreamMode) (buf : Buf) :
    pixelTransfers c mode buf = (buf.map (streamWord c mode)).toList.map .pixel :=
  List.ext_getElem (by simp [length_pixelTransfers]) fun k _ _ => by simp [pixelTransfers]

theorem pixelTransfers_raw_replicate (c : Config) (colour : Word) :
    pixelTransfers c .raw (Vector.replicate 24 colour) = List.replicate 24 (.pixel colour) := by
  simp [pixelTransfers, streamWord]

theorem exec_clear (colour : Word) (s : State) :
    exec (.clear colour) s = .next ((s.fillBuf colour).startStream .raw) := rfl

/-- Settles O49: the stream over the remapped buffer, read at mapped and at unmapped positions. -/
theorem renderSendsTheFrameAndABoundary : Obligations.RenderSendsTheFrameAndABoundary := by
  intro s w rest hr hp hc hd ho ha
  have hmapped := remap_get_mapped Config.chip s.frame s.buf
  have hunmapped (j : Fin 24) (hj : Config.chip.Unmapped j) := remap_get_unmapped Config.chip s.frame s.buf hj
  obtain ⟨t, hrun, hbuf, hsent, hrest⟩ := run_command_with_stream hr hp hc hd ho ha (exec_render _)
  rw [State.takeCommand_frame, State.takeCommand_buf] at hbuf hsent
  refine ⟨t, t.buf.map (streamWord Config.chip .corr), hrun, ?_, fun i => ?_, fun j hj => ?_, fun i => ?_,
    fun j hj => ?_, hrest⟩
  · rw [hsent, hbuf, pixelTransfers_eq_map]
  · rw [hbuf, ← hmapped i]; simp [streamWord]
  · rw [hbuf, ← hunmapped j hj]; simp [streamWord]
  · rw [hbuf, hmapped]
  · rw [hbuf, hunmapped j hj]

/-- Settles O50: the stream over a buffer of one colour, raw. -/
theorem clearSendsTheColourAndABoundary : Obligations.ClearSendsTheColourAndABoundary := by
  intro s w colour rest hr hp hc hd ho ha
  obtain ⟨t, hrun, hbuf, hsent, hrest⟩ := run_command_with_stream hr hp hc hd ho ha (exec_clear colour _)
  refine ⟨t, hrun, ?_, fun j => ?_, hrest⟩
  · rw [hsent, pixelTransfers_raw_replicate]
  · simp [hbuf]

end Sys2Proof.Machine
end

section
/-! PROOFS. The decoder and the encoder: which words decode to which command, and which to none (spec 30_encoding.md R44 to
R49, R52). -/

namespace Sys2Proof

open Machine

variable {w : CmdWord} {i : Instr} {r : OpcodeRow}

/-! ### The row of a command -/

/-- The row of the opcode map a command belongs to (R46). -/
def Instr.row : Instr → OpcodeRow
  | .frameZero => ⟨"FRAME_ZERO", 0x1#4, false, false⟩
  | .frameFill _ => ⟨"FRAME_FILL", 0x2#4, false, true⟩
  | .frameSet _ _ => ⟨"FRAME_SET", 0x3#4, true, true⟩
  | .frameGet _ => ⟨"FRAME_GET", 0x4#4, true, false⟩
  | .render => ⟨"RENDER", 0x5#4, false, false⟩
  | .clear _ => ⟨"CLEAR", 0x6#4, false, true⟩
  | .bufGet _ => ⟨"BUF_GET", 0x7#4, true, false⟩
  | .correct _ => ⟨"CORRECT", 0x8#4, false, true⟩
  | .statusGet => ⟨"STATUS_GET", 0x9#4, false, false⟩

theorem Instr.row_mem (i : Instr) : i.row ∈ opcodeTable := by
  cases i <;> simp [Instr.row, opcodeTable]

@[simp] theorem Instr.row_op (i : Instr) : i.row.op = i.op := by cases i <;> rfl

@[simp] theorem Instr.row_mnemonic (i : Instr) : i.row.mnemonic = i.mnemonic := by cases i <;> rfl

/-- No two rows share an opcode, so a command's opcode names its row. -/
theorem Instr.eq_row_of_op_eq (hr : r ∈ opcodeTable) (ho : r.op = i.op) : r = i.row := by
  have opcodes_differ : ∀ r ∈ opcodeTable, ∀ r' ∈ opcodeTable, r.op = r'.op → r = r' := by decide
  exact opcodes_differ r hr i.row i.row_mem (by simpa using ho)

/-- A command has the index 0 when its row does not use the field (R49). -/
theorem Instr.idx_eq_ite (i : Instr) : i.idx = if i.row.usesIdx then i.idx else 0 := by cases i <;> rfl

/-- A command has the data 0 when its row does not use the field (R49). -/
theorem Instr.dat_eq_ite (i : Instr) : i.dat = if i.row.usesDat then i.dat else 0 := by cases i <;> rfl

/-- Every row is the row of a command, at any value of the fields the row uses. -/
theorem exists_instr_of_row (hr : r ∈ opcodeTable) (idx : BitVec 5) (dat : Word) :
    ∃ i : Instr, i.row = r ∧ i.idx = (if r.usesIdx then idx else 0) ∧ i.dat = (if r.usesDat then dat else 0) := by
  simp only [opcodeTable, List.mem_cons, List.not_mem_nil, or_false] at hr
  obtain rfl | rfl | rfl | rfl | rfl | rfl | rfl | rfl | rfl := hr
  · exact ⟨.frameZero, rfl, rfl, rfl⟩
  · exact ⟨.frameFill dat, rfl, rfl, rfl⟩
  · exact ⟨.frameSet idx dat, rfl, rfl, rfl⟩
  · exact ⟨.frameGet idx, rfl, rfl, rfl⟩
  · exact ⟨.render, rfl, rfl, rfl⟩
  · exact ⟨.clear dat, rfl, rfl, rfl⟩
  · exact ⟨.bufGet idx, rfl, rfl, rfl⟩
  · exact ⟨.correct dat, rfl, rfl, rfl⟩
  · exact ⟨.statusGet, rfl, rfl, rfl⟩

/-! ### What a word decodes to -/

/-- R48: a word decodes to a command exactly when its reserved bits are 0, its opcode is the command's, and the fields the
command's row uses are the command's operands. -/
theorem decode_eq_ok_iff :
    decode w = .ok i ↔ rsvField w = 0 ∧ opField w = i.op ∧ i.idx = (if i.row.usesIdx then idxField w else 0) ∧
      i.dat = (if i.row.usesDat then datField w else 0) := by
  constructor
  · intro h
    unfold decode at h
    split at h
    · cases h
    · rename_i hrsv
      split at h <;> cases h <;> exact ⟨not_not.mp hrsv, ‹_›, rfl, rfl⟩
  · rintro ⟨hrsv, hop, hidx, hdat⟩
    cases i <;> simp_all [decode, Instr.op, Instr.idx, Instr.dat, Instr.row]

theorem decode_of_rsv_ne_zero (h : rsvField w ≠ 0) : decode w = .error .reservedBits := if_pos h

theorem decode_of_reservedOpcode (hrsv : rsvField w = 0) (hop : opField w ∈ reservedOpcodes) :
    decode w = .error .reservedOpcode := by
  simp only [reservedOpcodes, List.mem_cons, List.not_mem_nil, or_false] at hop
  obtain hop | hop | hop | hop | hop | hop | hop := hop <;> simp [decode, hrsv, hop]

/-- A word with the reserved bits 0 and a row's opcode is a command of that row, with the fields the row uses. -/
theorem decode_of_row (hr : r ∈ opcodeTable) (hop : opField w = r.op) (hrsv : rsvField w = 0) :
    ∃ i, decode w = .ok i ∧ i.row = r ∧ i.idx = (if r.usesIdx then idxField w else 0) ∧
      i.dat = (if r.usesDat then datField w else 0) := by
  obtain ⟨i, rfl, hidx, hdat⟩ := exists_instr_of_row hr (idxField w) (datField w)
  exact ⟨i, decode_eq_ok_iff.mpr ⟨hrsv, by simpa using hop, hidx, hdat⟩, rfl, hidx, hdat⟩

/-- Every opcode is reserved or a row's (R46, R47). -/
theorem reserved_or_row_of_op (op : BitVec 4) : op ∈ reservedOpcodes ∨ ∃ r ∈ opcodeTable, op = r.op := by
  revert op
  decide

/-- R48 is total: a word has a 1 among the reserved bits, a reserved opcode, or is a command. -/
theorem word_cases (w : CmdWord) :
    rsvField w ≠ 0 ∨ (rsvField w = 0 ∧ opField w ∈ reservedOpcodes) ∨ ∃ i, decode w = .ok i := by
  by_cases hrsv : rsvField w = 0
  · obtain hop | ⟨r, hr, hop⟩ := reserved_or_row_of_op (opField w)
    · exact .inr (.inl ⟨hrsv, hop⟩)
    · obtain ⟨i, hi, -⟩ := decode_of_row hr hop hrsv
      exact .inr (.inr ⟨i, hi⟩)
  · exact .inl hrsv

/-! ### The mask of R46 -/

theorem opField_and (w w' : CmdWord) : opField (w &&& w') = opField w &&& opField w' := BitVec.extractLsb'_and

theorem idxField_and (w w' : CmdWord) : idxField (w &&& w') = idxField w &&& idxField w' := BitVec.extractLsb'_and

theorem rsvField_and (w w' : CmdWord) : rsvField (w &&& w') = rsvField w &&& rsvField w' := BitVec.extractLsb'_and

theorem datField_and (w w' : CmdWord) : datField (w &&& w') = datField w &&& datField w' := BitVec.extractLsb'_and

@[simp] theorem opField_and_commandMask (w : CmdWord) : opField (w &&& commandMask) = opField w := by
  rw [opField_and, show opField commandMask = BitVec.allOnes 4 by decide, BitVec.and_allOnes]

@[simp] theorem idxField_and_commandMask (w : CmdWord) : idxField (w &&& commandMask) = 0 := by
  rw [idxField_and, show idxField commandMask = 0#5 by decide, BitVec.and_zero]
  rfl

@[simp] theorem rsvField_and_commandMask (w : CmdWord) : rsvField (w &&& commandMask) = rsvField w := by
  rw [rsvField_and, show rsvField commandMask = BitVec.allOnes 23 by decide, BitVec.and_allOnes]

@[simp] theorem datField_and_commandMask (w : CmdWord) : datField (w &&& commandMask) = 0 := by
  rw [datField_and, show datField commandMask = 0#32 by decide, BitVec.and_zero]
  rfl

/-- A row's pattern is the word of its opcode with every other field 0. -/
theorem OpcodeRow.pattern_eq_packCommand (r : OpcodeRow) : r.pattern = packCommand r.op 0 0 := by
  simp [OpcodeRow.pattern, packCommand]

/-- R46's mask keeps the opcode and the reserved bits, so the masked word is a row's pattern exactly when these agree. -/
theorem and_commandMask_eq_pattern_iff : w &&& commandMask = r.pattern ↔ opField w = r.op ∧ rsvField w = 0 := by
  rw [r.pattern_eq_packCommand]
  refine ⟨fun h => ⟨?_, ?_⟩, fun ⟨hop, hrsv⟩ => cmdWord_ext _ _ ?_ ?_ ?_ ?_⟩
  · rw [← opField_and_commandMask, h, opField_packCommand]
  · rw [← rsvField_and_commandMask, h, rsvField_packCommand]
  · rw [opField_and_commandMask, opField_packCommand, hop]
  · rw [idxField_and_commandMask, idxField_packCommand]
  · rw [rsvField_and_commandMask, rsvField_packCommand, hrsv]
  · rw [datField_and_commandMask, datField_packCommand]

/-! ### The statements -/

/-- Settles O1: the fields of a packed word are those it was packed from, and they select the command. -/
theorem decodeOfEncodeIsTheCommand : Obligations.DecodeOfEncodeIsTheCommand := by
  intro i
  refine decode_eq_ok_iff.mpr ⟨rsvField_packCommand .., opField_packCommand .., ?_, ?_⟩
  · rw [encode, idxField_packCommand]
    exact i.idx_eq_ite
  · rw [encode, datField_packCommand]
    exact i.dat_eq_ite

/-- Settles O2: the opcode of the word names the command's row, and the row says which fields are the operands. -/
theorem encodeOfDecodeKeepsTheUsedFields : Obligations.EncodeOfDecodeKeepsTheUsedFields := by
  intro w i h
  obtain ⟨hrsv, hop, hidx, hdat⟩ := decode_eq_ok_iff.mp h
  refine ⟨?_, ?_, fun r hr hro => ?_⟩
  · rw [encode, opField_packCommand, hop]
  · rw [encode, rsvField_packCommand, hrsv]
  · obtain rfl := Instr.eq_row_of_op_eq hr (hro.trans hop)
    rw [encode, idxField_packCommand, datField_packCommand]
    exact ⟨hidx, hdat⟩

/-- Settles O3: the mask selects the row, and the row the command. -/
theorem commandsAreSelectedByOpcodeAndReservedBits : Obligations.CommandsAreSelectedByOpcodeAndReservedBits := by
  refine ⟨fun w r hr hm => ?_, fun w i h => ?_⟩
  · obtain ⟨hop, hrsv⟩ := and_commandMask_eq_pattern_iff.mp hm
    obtain ⟨i, hi, rfl, hfields⟩ := decode_of_row hr hop hrsv
    exact ⟨i, hi, i.row_mnemonic.symm, hfields⟩
  · obtain ⟨hrsv, hop, -⟩ := decode_eq_ok_iff.mp h
    exact ⟨i.row, i.row_mem, i.row_mnemonic.symm, and_commandMask_eq_pattern_iff.mpr ⟨by rw [i.row_op, hop], hrsv⟩⟩

/-- Settles O4: the opcode and the reserved bits decide whether a word is a command, and the used fields which. -/
theorem unusedFieldsAreIgnored : Obligations.UnusedFieldsAreIgnored := by
  intro w w' hop hrsv hused
  obtain h | ⟨hr, ho⟩ | ⟨i, hi⟩ := word_cases w
  · rw [decode_of_rsv_ne_zero h, decode_of_rsv_ne_zero (by rwa [hrsv])]
  · rw [decode_of_reservedOpcode hr ho, decode_of_reservedOpcode (by rw [hrsv, hr]) (by rwa [hop])]
  · obtain ⟨hr, ho, hidx, hdat⟩ := decode_eq_ok_iff.mp hi
    obtain ⟨hidx', hdat'⟩ := hused i.row i.row_mem (by rw [i.row_op, ho])
    rw [hi]
    refine decode_eq_ok_iff.mpr ⟨hrsv.trans hr, hop.trans ho, ?_, ?_⟩
    · rw [hidx]
      exact ite_congr rfl (fun h => (hidx' h).symm) fun _ => rfl
    · rw [hdat]
      exact ite_congr rfl (fun h => (hdat' h).symm) fun _ => rfl

/-- Settles O5: the three kinds of words, of which only the commands decode. -/
theorem illegalWordsAreTheReservedOnes : Obligations.IllegalWordsAreTheReservedOnes := by
  intro w
  refine ⟨fun ⟨e, he⟩ => ?_, fun h => ?_⟩
  · obtain h | ⟨-, ho⟩ | ⟨i, hi⟩ := word_cases w
    · exact .inr h
    · exact .inl ho
    · simp [he] at hi
  · by_cases hrsv : rsvField w = 0
    · exact ⟨_, decode_of_reservedOpcode hrsv (h.resolve_right (not_not.mpr hrsv))⟩
    · exact ⟨_, decode_of_rsv_ne_zero hrsv⟩

/-- Settles O6: each text and each word of R52's table, computed. -/
theorem sampleEncodings : Obligations.SampleEncodings := by
  refine ⟨?_, ?_, ?_, ?_, ?_, ?_, ?_, ?_, ?_, ?_, ?_, ?_, ?_, ?_, ?_, ?_, ?_, ?_, ?_, ?_, ?_, ?_⟩ <;> decide

end Sys2Proof
end

section
/-! PROOFS. The assembler: which commands it refuses, the word it emits, and the pseudo-commands (spec 30_encoding.md R49 to
R51). -/

namespace Sys2Proof.Machine

variable {a b : AsmCommand} {fits : Prop} {w : CmdWord}

theorem assembleCommand_of_wellFormed (h : a.wellFormed = true) :
    assembleCommand a = some (encode (expandCommand a)) := if_pos h

theorem assembleCommand_eq_none_iff : assembleCommand a = none ↔ a.wellFormed = false := by
  simp [assembleCommand]

/-- Whatever the assembler emits is the word of the command's expansion. -/
theorem eq_encode_of_assembleCommand (h : assembleCommand a = some w) : w = encode (expandCommand a) := by
  unfold assembleCommand at h
  split at h
  · exact (Option.some.inj h).symm
  · cases h

@[simp] theorem fitsIdx_iff (n : Nat) : fitsIdx n = true ↔ n < 32 := decide_eq_true_iff

@[simp] theorem fitsDat_iff (n : Nat) : fitsDat n = true ↔ n < 0x100000000 := decide_eq_true_iff

@[simp] theorem fitsChannel_iff (n : Nat) : fitsChannel n = true ↔ n < 256 := decide_eq_true_iff

/-! ### Operands as numbers -/

theorem toNat_idx_ofNat {n : Nat} (h : n < 32) : (BitVec.ofNat 5 n).toNat = n := Nat.mod_eq_of_lt h

theorem toNat_dat_ofNat {n : Nat} (h : n < 0x100000000) : (BitVec.ofNat 32 n).toNat = n := Nat.mod_eq_of_lt h

theorem toNat_channel_ofNat {n : Nat} (h : n < 256) : (BitVec.ofNat 8 n).toNat = n := Nat.mod_eq_of_lt h

/-- The packed colour of R50, as a number. -/
theorem toNat_urgb_ofNat {r g b : Nat} (hr : r < 256) (hg : g < 256) (hb : b < 256) :
    (urgb (BitVec.ofNat 8 r) (BitVec.ofNat 8 g) (BitVec.ofNat 8 b)).toNat = 65536 * b + 256 * g + r := by
  rw [urgb_eq_pack4, toNat_pack4, toNat_channel_ofNat hr, toNat_channel_ofNat hg, toNat_channel_ofNat hb]
  simp

/-- The operand of CORRECT8, `zext_32(v)`, as a number (R51). -/
theorem toNat_setWidth_channel_ofNat {v : Nat} (hv : v < 256) : ((BitVec.ofNat 8 v).setWidth 32).toNat = v := by
  rw [BitVec.toNat_setWidth_of_le (by decide), toNat_channel_ofNat hv]

/-- A data field is the number it holds. -/
theorem eq_dat_ofNat {dat : Word} {n : Nat} (h : dat.toNat = n) : dat = BitVec.ofNat 32 n := by
  rw [← h, BitVec.ofNat_toNat, BitVec.setWidth_eq]

/-! ### The assembler's words -/

/-- What is left to check of a command: when its operands fit, and which fields its expansion has. -/
theorem assemblesExactlyWhen_of_fields {op idx dat : Nat} (hfits : a.wellFormed = true ↔ fits)
    (hfields : fits → (expandCommand a).op.toNat = op ∧ (expandCommand a).idx.toNat = idx ∧
      (expandCommand a).dat.toNat = dat) :
    AssemblesExactlyWhen a fits op idx dat := by
  refine ⟨fun h => ?_, fun h => ?_⟩
  · obtain ⟨hop, hidx, hdat⟩ := hfields h
    refine ⟨_, assembleCommand_of_wellFormed (hfits.mpr h), ?_, ?_, ?_, rsvField_packCommand .., ?_⟩
    · rw [encode, toNat_packCommand, hop, hidx, hdat]
    · rw [encode, opField_packCommand, hop]
    · rw [encode, idxField_packCommand, hidx]
    · rw [encode, datField_packCommand, hdat]
  · exact assembleCommand_eq_none_iff.mpr (Bool.eq_false_iff.mpr (mt hfits.mp h))

/-- Settles O7: command by command, the fields are the operands' values; and `decode` inverts `encode`. -/
theorem assemblerRefusesOnlyOperandsOutsideTheirField :
    Obligations.AssemblerRefusesOnlyOperandsOutsideTheirField := by
  refine ⟨fun idx dat r g b => ?_, fun a w h => ?_⟩
  · refine ⟨?_, ?_, ?_, ?_, ?_, ?_, ?_, ?_, ?_, ?_, ?_, ?_, ?_, ?_⟩
    all_goals refine assemblesExactlyWhen_of_fields (by simp [AsmCommand.wellFormed, and_assoc]) fun h => ?_
    · exact ⟨rfl, rfl, rfl⟩
    · exact ⟨rfl, rfl, toNat_dat_ofNat h⟩
    · exact ⟨rfl, toNat_idx_ofNat h.1, toNat_dat_ofNat h.2⟩
    · exact ⟨rfl, toNat_idx_ofNat h, rfl⟩
    · exact ⟨rfl, rfl, rfl⟩
    · exact ⟨rfl, rfl, toNat_dat_ofNat h⟩
    · exact ⟨rfl, toNat_idx_ofNat h, rfl⟩
    · exact ⟨rfl, rfl, toNat_dat_ofNat h⟩
    · exact ⟨rfl, rfl, rfl⟩
    · exact ⟨rfl, rfl, rfl⟩
    · obtain ⟨hr, hg, hb⟩ := h
      exact ⟨rfl, rfl, toNat_urgb_ofNat hr hg hb⟩
    · obtain ⟨hidx, hr, hg, hb⟩ := h
      exact ⟨rfl, toNat_idx_ofNat hidx, toNat_urgb_ofNat hr hg hb⟩
    · obtain ⟨hr, hg, hb⟩ := h
      exact ⟨rfl, rfl, toNat_urgb_ofNat hr hg hb⟩
    · exact ⟨rfl, rfl, toNat_setWidth_channel_ofNat h⟩
  · rw [eq_encode_of_assembleCommand h]
    exact decodeOfEncodeIsTheCommand _

/-- Commands with the same expansion assemble to the same word. -/
theorem exists_word_of_same_expansion (ha : a.wellFormed = true) (hb : b.wellFormed = true)
    (h : expandCommand a = expandCommand b) : ∃ w, assembleCommand a = some w ∧ assembleCommand b = some w :=
  ⟨_, assembleCommand_of_wellFormed ha, by rw [h, assembleCommand_of_wellFormed hb]⟩

/-- Settles O9: each pseudo-command has the expansion of the command it stands for, since the packed colour is that number. -/
theorem pseudoCommandsExpand : Obligations.PseudoCommandsExpand := by
  intro idx r g b hidx hr hg hb
  have hcolour : 65536 * b + 256 * g + r < 0x100000000 := by omega
  have hurgb := eq_dat_ofNat (toNat_urgb_ofNat hr hg hb)
  obtain ⟨w1, h1⟩ := exists_word_of_same_expansion (a := .blank) (b := .clear 0) rfl rfl rfl
  obtain ⟨w2, h2⟩ := exists_word_of_same_expansion
    (a := .frameFillRgb r g b) (b := .frameFill (65536 * b + 256 * g + r))
    (by simp [AsmCommand.wellFormed, *]) (by simp [AsmCommand.wellFormed, *]) (congrArg Instr.frameFill hurgb)
  obtain ⟨w3, h3⟩ := exists_word_of_same_expansion
    (a := .frameSetRgb idx r g b) (b := .frameSet idx (65536 * b + 256 * g + r))
    (by simp [AsmCommand.wellFormed, *]) (by simp [AsmCommand.wellFormed, *]) (congrArg (Instr.frameSet _) hurgb)
  obtain ⟨w4, h4⟩ := exists_word_of_same_expansion
    (a := .clearRgb r g b) (b := .clear (65536 * b + 256 * g + r))
    (by simp [AsmCommand.wellFormed, *]) (by simp [AsmCommand.wellFormed, *]) (congrArg Instr.clear hurgb)
  obtain ⟨w5, h5⟩ := exists_word_of_same_expansion (a := .correct8 r) (b := .correct r)
    (by simp [AsmCommand.wellFormed, hr]) (by simp [AsmCommand.wellFormed]; omega)
    (congrArg Instr.correct (eq_dat_ofNat (toNat_setWidth_channel_ofNat hr)))
  exact ⟨w1, w2, w3, w4, w5, h1, h2, h3, h4, h5⟩

end Sys2Proof.Machine
end

section
/-! PROOFS. The handshake: that every command and every word is answered, what each kind of step is, and what the ports carry
(spec 30_encoding.md R40 to R43; 42_render.md R66; 43_control.md R74, R75; 70_reset_and_hazards.md R91). -/

namespace Sys2Proof.Machine

variable {i : Instr} {w : CmdWord} {m : Move} {s t : State} {st : Status} {d : Word} {j : Fin 24} {mode : StreamMode}
  {rest : List Move}

/-! ### Every command and every word is answered -/

/-- R53, R75: no command stops the machine. -/
theorem exec_answers (i : Instr) (s : State) : ∃ t, exec i s = .next t := by
  cases i with
  | frameZero | frameFill _ | render | clear _ | correct _ | statusGet => exact ⟨_, rfl⟩
  | frameSet idx _ =>
    cases hk : frameIndex idx with
    | none => exact ⟨_, exec_frameSet_of_none hk s⟩
    | some _ => exact ⟨_, exec_frameSet_of_some hk s⟩
  | frameGet idx =>
    cases hk : frameIndex idx with
    | none => exact ⟨_, exec_frameGet_of_none hk s⟩
    | some _ => exact ⟨_, exec_frameGet_of_some hk s⟩
  | bufGet idx =>
    cases hk : bufIndex idx with
    | none => exact ⟨_, exec_bufGet_of_none hk s⟩
    | some _ => exact ⟨_, exec_bufGet_of_some hk s⟩

theorem runWord_of_illegal {e : Illegal} (hd : decode w = .error e) (s : State) :
    runWord w s = .next (s.raiseError .illegalCommand) := by
  simp [runWord, hd, rejectIllegal]

theorem runWord_of_command (hd : decode w = .ok i) (s : State) : runWord w s = exec i s := by
  simp [runWord, hd]

theorem runWord_answers (w : CmdWord) (s : State) : ∃ t, runWord w s = .next t := by
  cases hd : decode w with
  | error e => exact ⟨_, runWord_of_illegal hd s⟩
  | ok i =>
    rw [runWord_of_command hd]
    exact exec_answers i s

/-- Settles O34: what each command does, kind by kind. -/
theorem everyCommandIsAnswered : Obligations.EveryCommandIsAnswered := by
  intro i s
  obtain ⟨t, h⟩ := exec_answers i s
  refine ⟨t, h, ?_⟩
  obtain ⟨rfl, rfl⟩ | ⟨dat, rfl, rfl⟩ | ⟨idx, dat, k, rfl, -, rfl⟩ | ⟨idx, k, rfl, -, rfl⟩ | ⟨rfl, rfl⟩ |
    ⟨dat, rfl, rfl⟩ | ⟨idx, k, rfl, -, rfl⟩ | ⟨dat, rfl, rfl⟩ | ⟨rfl, rfl⟩ | ⟨hi, rfl⟩ := exec_cases h
  · exact .inr ⟨by simp, by simp, .ok, 0, by simp⟩
  · exact .inr ⟨by simp, by simp, .ok, 0, by simp⟩
  · exact .inr ⟨by simp, by simp, .ok, 0, by simp⟩
  · exact .inr ⟨by simp, by simp, .ok, s.readFrame k, by simp⟩
  · exact .inl ⟨.corr, by simp⟩
  · exact .inl ⟨.raw, by simp⟩
  · exact .inr ⟨by simp, by simp, .ok, s.readBuf k, by simp⟩
  · exact .inr ⟨by simp, by simp, .ok, g4 Config.chip dat, by simp⟩
  · exact .inr ⟨by simp, by simp, .ok, statusWord Config.chip.topology s.err, by simp⟩
  · obtain ⟨_, _, rfl, -⟩ | ⟨_, rfl, -⟩ | ⟨_, rfl, -⟩ := hi <;>
      exact .inr ⟨by simp, by simp, .indexOutOfRange, 0, by simp [BlockError.code]⟩

/-! ### One step of each kind -/

theorem step_of_word (hr : s.rst = false) (hp : s.phase = .idle) (hc : s.cmd = some w) :
    step s = runWord w s.takeCommand := by
  simp [step, machineStep, hr, hp, hc]

theorem step_of_response (hr : s.rst = false) (hp : s.phase = .resp st d) (hready : s.rspReady = true) :
    step s = .next (s.acceptResponse st d) := by
  simp [step, machineStep, hr, hp, hready]

theorem step_of_move (hr : s.rst = false) (he : transferEnabled s = false) (ha : s.agenda = m :: rest) :
    step s = agentMove m { s with agenda := rest } := by
  simp [step_of_not_enabled hr he, agentsStep, ha]

/-- A transfer that the pins enable happens (R41 item 1). -/
theorem step_of_enabled (hr : s.rst = false) (he : transferEnabled s = true) : ∃ t, step s = .next t := by
  cases hp : s.phase with
  | idle =>
    obtain ⟨w, hc⟩ : ∃ w, s.cmd = some w := by simpa [transferEnabled, hp, Option.isSome_iff_exists] using he
    rw [step_of_word hr hp hc]
    exact runWord_answers w _
  | stream j mode => exact ⟨_, step_of_pixel hr hp (by simpa [transferEnabled, hp] using he)⟩
  | bound => exact ⟨_, step_of_boundary hr hp (by simpa [transferEnabled, hp] using he)⟩
  | resp st d => exact ⟨_, step_of_response hr hp (by simpa [transferEnabled, hp] using he)⟩

/-- Taking an error does what R80 says, and nothing else. -/
theorem failedWith_raiseError (s : State) (e : BlockError) : FailedWith e.code s (s.raiseError e) :=
  ⟨rfl, rfl, rfl, rfl, ⟨rfl, rfl, rfl, rfl, rfl, rfl, rfl⟩⟩

/-- Settles O11: the step is the error of an illegal word. -/
theorem illegalWordIsAnsweredAndDoesNothingElse : Obligations.IllegalWordIsAnsweredAndDoesNothingElse := by
  intro s w hr hp hc hw
  obtain ⟨e, he⟩ := (illegalWordsAreTheReservedOnes w).mpr hw
  exact ⟨_, (step_of_word hr hp hc).trans (runWord_of_illegal he _), failedWith_raiseError _ .illegalCommand⟩

/-- Settles O14: the step is the boundary transfer, whose fields are read off. -/
theorem boundaryTransferEndsTheStream : Obligations.BoundaryTransferEndsTheStream := by
  intro s hr hp ho
  exact ⟨_, step_of_boundary hr hp ho, rfl, rfl, rfl, rfl, rfl, hr, rfl, rfl, rfl, rfl, rfl⟩

/-- Settles O55: the step is the move at the head of the agenda, and a waiting word stays when it is presented again. -/
theorem agentMoveSetsItsOwnPin : Obligations.AgentMoveSetsItsOwnPin := by
  intro s rest hr he
  refine ⟨fun w ha hc => ?_, fun ha => step_of_move hr he ha, fun ha => step_of_move hr he ha,
    fun ha => step_of_move hr he ha⟩
  rw [step_of_move hr he ha]
  obtain hc | hc := hc <;> simp [agentMove, hc]

/-- An agent's move is refused only to a caller that changes the word it has presented (R41 item 2; log 11). -/
theorem agentMove_eq_refused_iff {r : Refusal} : agentMove m s = .refused r ↔
    r = .callerChangedCommand ∧ ∃ v w, s.cmd = some v ∧ v ≠ w ∧ m = .presentCommand w := by
  cases m with
  | presentCommand w =>
    cases hc : s.cmd with
    | none => simp [agentMove, hc]
    | some v =>
      by_cases hv : v = w
      · simp [agentMove, hc, hv]
      · simp [agentMove, hc, hv, eq_comm (a := r)]
  | acceptResponse => simp [agentMove]
  | acceptTransfer => simp [agentMove]
  | assertReset => simp [agentMove]

/-- Settles O17: reset edges and transfers are never refused, and an agent's move only as `agentMove_eq_refused_iff` says. -/
theorem onlyAChangedCommandWordIsRefused : Obligations.OnlyAChangedCommandWordIsRefused := by
  intro s r
  cases hr : s.rst with
  | true => simp [step_of_rst hr]
  | false =>
    cases he : transferEnabled s with
    | true =>
      obtain ⟨t, ht⟩ := step_of_enabled hr he
      simp [ht]
    | false =>
      cases ha : s.agenda with
      | nil => simp [step_of_not_enabled hr he, agentsStep, ha]
      | cons m rest => simp [step_of_move hr he ha, agentMove_eq_refused_iff, ← and_assoc]

/-! ### The ports -/

theorem outPort_of_stream (c : Config) (hr : s.rst = false) (hp : s.phase = .stream j mode) :
    outPort c s = some (.pixel (streamWord c mode s.buf[j])) := by
  simp [outPort, hr, hp]

theorem outPort_of_bound (c : Config) (hr : s.rst = false) (hp : s.phase = .bound) : outPort c s = some .boundary := by
  simp [outPort, hr, hp]

theorem outPort_of_idle (c : Config) (hp : s.phase = .idle) : outPort c s = none := by
  simp [outPort, hp]

theorem outPort_of_resp (c : Config) (hp : s.phase = .resp st d) : outPort c s = none := by
  simp [outPort, hp]

theorem rspPort_of_resp (hr : s.rst = false) (hp : s.phase = .resp st d) : rspPort s = some ⟨st, d⟩ := by
  simp [rspPort, hr, hp]

/-- The block's pins are functions of its own state and of `rst`. -/
theorem ports_of_sameBlock (c : Config) (block : SameBlock s t) (hr : t.rst = s.rst) :
    cmdReady t = cmdReady s ∧ outPort c t = outPort c s ∧ rspPort t = rspPort s := by
  simp [cmdReady, outPort, rspPort, hr, block.phase, block.buf]

/-- Settles O20: one phase, one channel. -/
theorem exactlyOneChannelIsActive : Obligations.ExactlyOneChannelIsActive := by
  intro c s hr
  cases hp : s.phase with
  | idle => exact .inl (by simp [cmdReady, outPort, rspPort, hr, hp])
  | stream j mode => exact .inr (.inl (by simp [cmdReady, outPort, rspPort, hr, hp]))
  | bound => exact .inr (.inl (by simp [cmdReady, outPort, rspPort, hr, hp]))
  | resp st d => exact .inr (.inr (by simp [cmdReady, outPort, rspPort, hr, hp]))

/-- Settles O54: each phase presents what its transfer sends. -/
theorem outputPinsCarryTheWordOrTheBoundary : Obligations.OutputPinsCarryTheWordOrTheBoundary := by
  intro s hr
  refine ⟨fun j mode hp => ⟨_, outPort_of_stream _ hr hp, rfl, ?_, fun ho => ⟨_, step_of_pixel hr hp ho, rfl⟩⟩,
    fun hp => ⟨_, outPort_of_bound _ hr hp, rfl, rfl, fun ho => ⟨_, step_of_boundary hr hp ho, rfl⟩⟩,
    outPort_of_idle _, fun st d => outPort_of_resp _⟩
  cases mode <;> rfl

/-- Settles O22: the ports are silent during reset, and the step is the reset edge, whose fields are read off. -/
theorem resetEdgeSetsTheResetValues : Obligations.ResetEdgeSetsTheResetValues := by
  intro s hr
  refine ⟨by simp [cmdReady, hr], by simp [outPort, hr], by simp [rspPort, hr], _, step_of_rst hr, fun i => ?_, fun j => ?_,
    rfl, rfl, rfl, rfl, rfl, rfl⟩ <;> simp [resetEdge]

/-- Settles O39: the codes computed, and the reading back status by status. -/
theorem statusCodesAndTheReservedOne : Obligations.StatusCodesAndTheReservedOne := by
  refine ⟨rfl, rfl, rfl, fun st d => ?_, fun _ => rfl⟩
  cases st <;> rfl

/-! ### The handshake -/

/-- The caller raises `rsp_ready`, and gets a response by a transfer only (R41 item 1). -/
theorem agentMove_responses (h : agentMove m { s with agenda := rest } = .next t) : t.responses = s.responses := by
  obtain ⟨_, -, -, rfl⟩ | ⟨-, rfl⟩ | ⟨-, rfl⟩ | ⟨-, rfl⟩ := agentMove_cases h <;> rfl

/-- Settles O18: without reset and transfer the step is an agent's move, which reaches no part of the block. -/
theorem blockHoldsWhatItOffersUntilTheTransfer : Obligations.BlockHoldsWhatItOffersUntilTheTransfer := by
  intro s t hr he h
  rw [step_of_not_enabled hr he] at h
  obtain ⟨m, rest, -, hm⟩ := agentsStep_cases h
  obtain ⟨block, hsent⟩ := agentMove_keeps_block_and_sent hm
  exact ⟨block, hsent, agentMove_responses hm, fun w hc => agentMove_keeps_waiting_cmd hm hc,
    fun ht => ports_of_sameBlock _ block (ht.trans hr.symm)⟩

/-- An accepted word neither sends nor answers yet. -/
theorem runWord_sameOutside (h : runWord w s = .next t) : SameOutside s t := by
  obtain ⟨-, rfl⟩ | ⟨i, -, hi⟩ := runWord_cases h
  · exact ⟨rfl, rfl, rfl, rfl, rfl, rfl, rfl⟩
  · exact exec_sameOutside hi

/-- Settles O19: a transfer adds what its port presents, and the other steps add nothing. -/
theorem onlyPresentedPayloadsAreTransferred : Obligations.OnlyPresentedPayloadsAreTransferred := by
  intro s t h
  obtain ⟨-, rfl⟩ | ⟨-, -, w, -, hw⟩ | ⟨hr, ho, j, mode, hp, rfl⟩ | ⟨hr, ho, hp, rfl⟩ | ⟨hr, hready, st, d, hp, rfl⟩ |
    ⟨-, -, m, rest, -, hm⟩ := step_cases h
  · exact ⟨.inl rfl, .inl rfl⟩
  · have outside := runWord_sameOutside hw
    exact ⟨.inl outside.sent, .inl outside.responses⟩
  · exact ⟨.inr ⟨_, outPort_of_stream _ hr hp, ho, hr, rfl⟩, .inl rfl⟩
  · exact ⟨.inr ⟨_, outPort_of_bound _ hr hp, ho, hr, rfl⟩, .inl rfl⟩
  · exact ⟨.inl rfl, .inr ⟨_, rspPort_of_resp hr hp, hready, hr, rfl, rfl⟩⟩
  · obtain ⟨-, hsent⟩ := agentMove_keeps_block_and_sent hm
    exact ⟨.inl hsent, .inl (agentMove_responses hm)⟩

end Sys2Proof.Machine
end

section
/-! PROOFS. The response of a whole command, whatever word is presented (spec 30_encoding.md R42; 43_control.md R75). -/

namespace Sys2Proof.Machine

variable {i : Instr} {w : CmdWord} {s t : State} {st : Status} {d : Word} {rest : List Move}

/-- In RESP the transmitter's moves raise its own pin only: no transfer of its channel is offered. -/
theorem run_acceptTransfers_of_resp (hr : s.rst = false) (hp : s.phase = .resp st d) (hready : s.rspReady = false) (n : Nat)
    (ha : s.agenda = List.replicate n .acceptTransfer ++ rest) :
    ∃ ready, run n s = .next { s with agenda := rest, outReady := ready } := by
  induction n generalizing s with
  | zero => exact ⟨s.outReady, by simp [run, show rest = s.agenda by simp [ha]]⟩
  | succ n ih =>
    have he : transferEnabled s = false := by simp [transferEnabled, hp, hready]
    rw [run_succ_of_step (step_of_acceptTransfer hr he ha)]
    exact ih (s := { s with agenda := _, outReady := true }) hr hp hready rfl

/-- The caller's move comes first, and its transfer follows (log 5). -/
theorem run_two_of_acceptResponse (hr : s.rst = false) (hp : s.phase = .resp st d) (hready : s.rspReady = false)
    (ha : s.agenda = .acceptResponse :: rest) :
    run 2 s = .next { s with phase := .idle, agenda := rest, responses := s.responses ++ [⟨st, d⟩] } := by
  have he : transferEnabled s = false := by simp [transferEnabled, hp, hready]
  have hmove : step s = .next { s with agenda := rest, rspReady := true } := step_of_move hr he ha
  rw [run_succ_of_step hmove, run_one, step_of_response (s := { s with agenda := rest, rspReady := true }) hr hp rfl]
  simp [State.acceptResponse, hready]

/-- A command answered at once waits in RESP while the transmitter makes its 25 moves, and then for the caller. -/
theorem run_response (hr : s.rst = false) (hp : s.phase = .resp st d) (hready : s.rspReady = false)
    (ha : s.agenda = List.replicate 25 .acceptTransfer ++ .acceptResponse :: rest) :
    ∃ ready, run 27 s = .next { s with
      phase := .idle
      agenda := rest
      outReady := ready
      responses := s.responses ++ [⟨st, d⟩] } := by
  obtain ⟨ready, hwait⟩ := run_acceptTransfers_of_resp hr hp hready 25 ha
  refine ⟨ready, ?_⟩
  rw [run_add hwait 2, run_two_of_acceptResponse (s := { s with agenda := _, outReady := ready }) hr hp hready rfl]

/-- What a presented word leads to under the schedule of `EveryWordGetsOneResponse`: the state `t`, back in IDLE, with the
response `r`, and with no transfer or those of one stream. -/
structure AnsweredWith (r : Response) (rest : List Move) (s t : State) : Prop where
  phase : t.phase = .idle
  cmd : t.cmd = none
  rst : t.rst = false
  agenda : t.agenda = rest
  responses : t.responses = s.responses ++ [r]
  sent : t.sent = s.sent ∨ ∃ words : Vector Word 24, t.sent = s.sent ++ words.toList.map .pixel ++ [.boundary]

/-- The agents' schedule: a word presented to an idle block, a transmitter that will accept 25 transfers, and a caller that
will then accept one response (log 4). -/
structure Scheduled (w : CmdWord) (rest : List Move) (s : State) : Prop where
  rst : s.rst = false
  phase : s.phase = .idle
  cmd : s.cmd = some w
  outReady : s.outReady = false
  rspReady : s.rspReady = false
  agenda : s.agenda = List.replicate 25 .acceptTransfer ++ .acceptResponse :: rest

/-- A word answered at once: one step to the response, 25 moves of the transmitter, and the caller's acceptance. -/
theorem answered_of_response (h : Scheduled w rest s) (hw : runWord w s.takeCommand = .next t)
    (hp : t.phase = .resp st d) : ∃ u, run 28 s = .next u ∧ AnsweredWith ⟨st, d⟩ rest s u := by
  obtain ⟨hrst, hcmd, hrsp, -, hagenda, hsent, hresponses⟩ := runWord_sameOutside hw
  have hstep := (step_of_word h.rst h.phase h.cmd).trans hw
  obtain ⟨ready, hrun⟩ := run_response (hrst.trans h.rst) hp (hrsp.trans h.rspReady) (hagenda.trans h.agenda)
  exact ⟨_, (run_succ_of_step hstep 27).trans hrun, rfl, hcmd, hrst.trans h.rst, rfl, by simp [hresponses], .inl hsent⟩

/-- A word answered by a stream: 51 steps to the response, and the caller's acceptance. -/
theorem answered_of_stream {b : Buf} {mode : StreamMode} (h : Scheduled w rest s) (hd : decode w = .ok i)
    (hi : exec i s.takeCommand = .next ((s.takeCommand.setBuf b).startStream mode)) :
    ∃ u, run 53 s = .next u ∧ AnsweredWith ⟨.ok, 0⟩ rest s u := by
  obtain ⟨t, hrun, -, hsent, hp, -, -, hresponses, hrst, hcmd, hrsp, -, hagenda⟩ :=
    run_command_with_stream h.rst h.phase h.cmd hd h.outReady h.agenda hi
  refine ⟨_, (run_add hrun 2).trans (run_two_of_acceptResponse hrst hp (hrsp.trans h.rspReady) hagenda), rfl, hcmd, hrst, rfl,
    by simp [hresponses], .inr ⟨b.map (streamWord Config.chip mode), ?_⟩⟩
  rw [hsent, pixelTransfers_eq_map]

/-- Every word under the schedule: an illegal one, a command answered at once, RENDER and CLEAR. -/
theorem every_scheduled_word_is_answered (h : Scheduled w rest s) :
    ∃ n t r, n ≤ 53 ∧ run n s = .next t ∧ AnsweredWith r rest s t ∧ ((∃ e, decode w = .error e) → r = ⟨.illegalCommand, 0⟩) := by
  cases hd : decode w with
  | error e =>
    obtain ⟨t, hrun, ht⟩ := answered_of_response h (runWord_of_illegal hd _) rfl
    exact ⟨28, t, _, by decide, hrun, ht, fun _ => rfl⟩
  | ok i =>
    obtain ⟨u, hi⟩ := exec_answers i s.takeCommand
    have hw := (runWord_of_command hd _).trans hi
    have legal (r : Response) : (∃ e : Illegal, Except.ok i = Except.error e) → r = ⟨.illegalCommand, 0⟩ := by simp
    cases exec_effect hi with
    | failed eq | wroteFrame _ _ eq | answered _ eq =>
      obtain ⟨t, hrun, ht⟩ := answered_of_response h hw (by rw [eq]; rfl)
      exact ⟨28, t, _, by decide, hrun, ht, legal _⟩
    | rendered _ eq | cleared _ _ eq =>
      obtain ⟨t, hrun, ht⟩ := answered_of_stream h hd (eq ▸ hi)
      exact ⟨53, t, _, by decide, hrun, ht, legal _⟩

/-- Settles O51: the schedule's words are answered, and the fields of the state they lead to are read off. -/
theorem everyWordGetsOneResponse : Obligations.EveryWordGetsOneResponse := by
  intro s w rest hr hp hc ho hready ha
  obtain ⟨n, t, r, hn, hrun, ht, hillegal⟩ := every_scheduled_word_is_answered ⟨hr, hp, hc, ho, hready, ha⟩
  exact ⟨n, t, r, hn, hrun, ht.phase, ht.cmd, ht.rst, ht.agenda, ht.responses, hillegal, ht.sent⟩

end Sys2Proof.Machine
end

section
/-! PROOFS. The frame-store commands: the word each is decoded from, what it does to the frame, and what it fails on (spec
40_frame.md R53 to R57). -/

namespace Sys2Proof.Machine

variable {idx : BitVec 5} {dat : Word} {i : Instr} {s t : State}

/-- Settles O10: the step is the command transfer, which takes the word off the port. -/
theorem stepRunsTheDecodedCommand : Obligations.StepRunsTheDecodedCommand :=
  fun _ _ _ hr hp hc hd => step_of_command hr hp hc hd

/-! ### The whole frame: FRAME_ZERO and FRAME_FILL -/

theorem exec_frameFill (dat : Word) (s : State) :
    exec (.frameFill dat) s = .next ((s.fillFrame dat).respond .ok 0) := rfl

/-- FRAME_ZERO is FRAME_FILL with the zero colour (R54). -/
theorem exec_frameZero_eq_frameFill (s : State) : exec .frameZero s = exec (.frameFill 0) s := rfl

/-- A FRAME_FILL overwrites all that one before it did. -/
theorem exec_frameFill_of_frameFill {dat' : Word} (h : exec (.frameFill dat') s = .next t) (dat : Word) :
    exec (.frameFill dat) t = exec (.frameFill dat) s := by
  obtain rfl := Host.Outcome.next.inj ((exec_frameFill dat' s).symm.trans h)
  rfl

/-- Settles O26: the frame is one colour repeated, and the unused index field of the word is 0. -/
theorem frameFillSetsEveryEntry : Obligations.FrameFillSetsEveryEntry := by
  refine fun dat => ⟨fun w hop hrsv => decode_eq_ok_iff.mpr ⟨hrsv, hop, rfl, rfl⟩, ?_, fun s => ?_⟩
  · simp [encode, packCommand, Instr.op, Instr.idx, Instr.dat]
  · have h := exec_frameFill dat s
    exact ⟨_, h, by simp, rfl, rfl, rfl, exec_sameOutside h⟩

/-- Settles O25: FRAME_ZERO does what FRAME_FILL 0 does, and a fill overwrites the fill before it. -/
theorem frameZeroClearsTheFrame : Obligations.FrameZeroClearsTheFrame := by
  refine ⟨fun w hop hrsv => decode_eq_ok_iff.mpr ⟨hrsv, hop, rfl, rfl⟩, by decide, fun s => ?_⟩
  obtain ⟨-, -, fills⟩ := frameFillSetsEveryEntry 0
  obtain ⟨t, hfill, hframe, hphase, hbuf, herr, outside⟩ := fills s
  have again : exec .frameZero t = .next t := by
    rw [exec_frameZero_eq_frameFill, exec_frameFill_of_frameFill hfill, hfill]
  exact ⟨t, hfill, hframe, hphase, hbuf, herr, outside, again, hfill⟩

/-! ### One entry: FRAME_SET and FRAME_GET -/

/-- A command that raises the error of an index fails with it and does nothing else (R78, R80). -/
theorem failedWith_of_indexOutOfRange (h : exec i s = .next (s.raiseError .indexOutOfRange)) :
    ∃ t, exec i s = .next t ∧ FailedWith .indexOutOfRange s t :=
  ⟨_, h, failedWith_raiseError s .indexOutOfRange⟩

/-- A FRAME_SET overwrites all that one of the same entry did before it. -/
theorem exec_frameSet_of_frameSet {k : Fin 14} {dat' : Word} (hk : frameIndex idx = some k)
    (h : exec (.frameSet idx dat') s = .next t) (dat : Word) :
    exec (.frameSet idx dat) t = exec (.frameSet idx dat) s := by
  obtain rfl := Host.Outcome.next.inj ((exec_frameSet_of_some hk s).symm.trans h)
  rw [exec_frameSet_of_some hk, exec_frameSet_of_some hk]
  simp [State.writeFrame, State.setPhase]

/-- Settles O27: an index below 14 names an entry, whose write is a vector's; another names none. -/
theorem frameSetWritesOneEntryOrFails : Obligations.FrameSetWritesOneEntryOrFails := by
  refine ⟨fun w hop hrsv => decode_eq_ok_iff.mpr ⟨hrsv, hop, rfl, rfl⟩,
    fun idx dat => ⟨rfl, fun s => ⟨fun hlt => ?_, fun hge => ?_⟩⟩⟩
  · have hk := frameIndex_of_lt hlt
    have h := exec_frameSet_of_some (dat := dat) hk s
    refine ⟨_, h, fun i => ?_, rfl, rfl, rfl, exec_sameOutside h, exec_frameSet_of_frameSet hk h⟩
    simp [Vector.getElem_set, eq_comm]
  · exact failedWith_of_indexOutOfRange (exec_frameSet_of_none ((frameIndex_eq_none idx).mpr hge) s)

/-- Settles O28: an index below 14 names the entry that is returned; another names none. -/
theorem frameGetReturnsOneEntryOrFails : Obligations.FrameGetReturnsOneEntryOrFails := by
  refine ⟨fun w hop hrsv => decode_eq_ok_iff.mpr ⟨hrsv, hop, rfl, rfl⟩,
    fun idx => ⟨?_, fun s => ⟨fun k hk => ?_, fun hge => ?_⟩⟩⟩
  · simp [encode, packCommand, Instr.op, Instr.idx, Instr.dat]
  · have h := exec_frameGet_of_some ((frameIndex_eq_some idx k).mpr hk) s
    exact ⟨_, h, rfl, rfl, rfl, rfl, exec_sameOutside h⟩
  · exact failedWith_of_indexOutOfRange (exec_frameGet_of_none ((frameIndex_eq_none idx).mpr hge) s)

end Sys2Proof.Machine
end

section
/-! PROOFS. The gamma corrector: the laws of the table, the corrected word lane by lane, and CORRECT (spec 41_gamma.md R58 to
R61, R64). -/

namespace Sys2Proof

/-! ### The table (R59) -/

theorem Config.G_zero (c : Config) : c.G 0 = 0 := c.gamma_zero

theorem Config.G_max (c : Config) : c.G 255 = 255 := c.gamma_max

theorem Config.G_mono (c : Config) {a b : Lane} (h : a.toNat ≤ b.toNat) : (c.G a).toNat ≤ (c.G b).toNat :=
  c.gamma_mono a b h

/-- A gamma table that takes every value but the two ends one down. -/
def oneDown (v : Lane) : Lane := if v = 0 ∨ v = 255 then v else v - 1

theorem oneDown_of_inner {v : Lane} (h0 : v ≠ 0) (h255 : v ≠ 255) : oneDown v = v - 1 :=
  if_neg (not_or.mpr ⟨h0, h255⟩)

theorem oneDown_mono (a b : Lane) (h : a ≤ b) : oneDown a ≤ oneDown b := by
  unfold oneDown
  split_ifs <;> bv_omega

/-- A valid table that has none of the properties R59 does not guarantee: 0 and 1 share an output, every value between the
ends moves, and 2 moves again at a second pass. -/
def configOneDown : Config where
  topology := 0
  gammaTable := oneDown
  gamma_mono := oneDown_mono

/-- Settles O40: the laws are the premises GT1 to GT3, and one table shows all that they leave open. -/
theorem gammaLawsAndWhatIsNotGuaranteed : Obligations.GammaLawsAndWhatIsNotGuaranteed := by
  refine ⟨fun c => ⟨c.G_zero, c.G_max, fun _ _ => c.G_mono⟩, ⟨configOneDown, 0, 1, by decide, by decide⟩,
    ⟨configOneDown, fun v h0 h255 => ?_⟩, ⟨configOneDown, 2, by decide⟩⟩
  have moved : configOneDown.G v = v - 1 := oneDown_of_inner h0 h255
  rw [moved]
  bv_omega

end Sys2Proof

namespace Sys2Proof.Machine

/-! ### The corrected word (R60, R61) -/

theorem g4_pack4 (c : Config) (l3 l2 l1 l0 : Lane) :
    g4 c (pack4 l3 l2 l1 l0) = pack4 (c.G l3) (c.G l2) (c.G l1) (c.G l0) := by
  obtain ⟨h0, h1, h2, h3⟩ := lane_pack4 l3 l2 l1 l0
  rw [g4, h0, h1, h2, h3]

/-- R60: nothing crosses between the lanes. -/
@[simp] theorem lane_g4 (c : Config) (w : Word) (k : Fin 4) : lane (g4 c w) k = c.G (lane w k) := by
  obtain ⟨h0, h1, h2, h3⟩ := lane_pack4 (c.G (lane w 3)) (c.G (lane w 2)) (c.G (lane w 1)) (c.G (lane w 0))
  match k with
  | 0 => exact h0
  | 1 => exact h1
  | 2 => exact h2
  | 3 => exact h3

/-- The ends of the table are fixed points, so a word made of them is one of `G4`. -/
theorem g4_of_lanes_at_ends (c : Config) {w : Word} (h : ∀ k, lane w k = 0x00 ∨ lane w k = 0xFF) : g4 c w = w := by
  apply word_ext_lanes
  intro k
  rw [lane_g4]
  obtain hk | hk := h k
  · rw [hk, c.G_zero]
  · rw [hk, c.G_max]

theorem g4_zero (c : Config) : g4 c 0x00000000 = 0x00000000 := g4_of_lanes_at_ends c (by decide)

theorem g4_allOnes (c : Config) : g4 c 0xFFFFFFFF = 0xFFFFFFFF := g4_of_lanes_at_ends c (by decide)

/-- Each channel of a colour is corrected, and the unused lane stays 0. -/
theorem g4_urgb (c : Config) (r g b : Lane) : g4 c (urgb r g b) = urgb (c.G r) (c.G g) (c.G b) := by
  rw [urgb_eq_pack4, urgb_eq_pack4, g4_pack4, c.G_zero]

/-- A zero-extended lane is a colour with that red channel and no other. -/
theorem setWidth_eq_urgb (v : Lane) : v.setWidth 32 = urgb v 0 0 := by simp [urgb]

theorem g4_setWidth (c : Config) (v : Lane) : g4 c (v.setWidth 32) = (c.G v).setWidth 32 := by
  rw [setWidth_eq_urgb, setWidth_eq_urgb, g4_urgb, c.G_zero]

theorem g4_lanewise_mono (c : Config) {a b : Word} (h : ∀ k, (lane a k).toNat ≤ (lane b k).toNat) (k : Fin 4) :
    (lane (g4 c a) k).toNat ≤ (lane (g4 c b) k).toNat := by
  rw [lane_g4, lane_g4]
  exact c.G_mono (h k)

/-- Settles O41: a lane of the corrected word is a function of the same lane of the word. -/
theorem lanesAreCorrectedIndependently : Obligations.LanesAreCorrectedIndependently :=
  fun c w w' k => ⟨lane_g4 c w k, fun h => by rw [lane_g4, lane_g4, h]⟩

/-- Settles O42: each law is one of the table's laws, taken lane by lane. -/
theorem correctedWordLaws : Obligations.CorrectedWordLaws := by
  refine fun c => ⟨g4_zero c, g4_allOnes c, fun v => ?_, fun w k => ⟨fun h => ?_, fun h => ?_⟩,
    fun _ _ => g4_lanewise_mono c⟩
  · rw [g4_urgb, urgb_eq_pack4]
  · rw [lane_g4, h, c.G_zero]
  · rw [lane_g4, h, c.G_max]

/-! ### CORRECT (R64) -/

theorem exec_correct (dat : Word) (s : State) :
    exec (.correct dat) s = .next (s.respond .ok (g4 Config.chip dat)) := rfl

/-- Settles O32: CORRECT responds with the corrected word, whose laws give its values. -/
theorem correctReturnsTheCorrectedWord : Obligations.CorrectReturnsTheCorrectedWord := by
  refine ⟨fun w hop hrsv => decode_eq_ok_iff.mpr ⟨hrsv, hop, rfl, rfl⟩, fun dat => ⟨?_, fun s => ?_⟩⟩
  · simp [encode, packCommand, Instr.op, Instr.idx, Instr.dat]
  · have h := exec_correct dat s
    refine ⟨_, g4 Config.chip dat, h, rfl, lane_g4 Config.chip dat, ?_, ?_, ?_, rfl, rfl, rfl, exec_sameOutside h⟩
    · rintro rfl
      exact g4_zero Config.chip
    · rintro rfl
      exact g4_allOnes Config.chip
    · rintro v rfl
      exact g4_setWidth Config.chip v

end Sys2Proof.Machine
end

section
/-! PROOFS. The renderer: the waits of the phase machine, the return to IDLE, the remap, and RENDER, CLEAR and BUF_GET at
their acceptance (spec 42_render.md R65 to R72). -/

namespace Sys2Proof.Machine

variable {s t : State} {f : Fault} {j : Fin 24} {c : Config} {order : List (Fin 14)}

/-! ### The stuck states (R66, R67) -/

/-- An agent's move never stops the machine with a fault. -/
theorem agentMove_ne_fault (m : Move) (s : State) (f : Fault) : agentMove m s ≠ .fault f := by
  cases m with
  | presentCommand w =>
    cases hc : s.cmd with
    | none => simp [agentMove, hc]
    | some v => by_cases hv : v = w <;> simp [agentMove, hc, hv]
  | acceptResponse | acceptTransfer | assertReset => simp [agentMove]

/-- The step is stuck exactly when there is no reset edge, no transfer and no agent to move. -/
theorem step_eq_fault_iff :
    step s = .fault f ↔ s.rst = false ∧ s.agenda = [] ∧ transferEnabled s = false ∧ f = waitFault s.phase := by
  cases hr : s.rst with
  | true => simp [step_of_rst hr]
  | false =>
    cases he : transferEnabled s with
    | true =>
      obtain ⟨t, ht⟩ := step_of_enabled hr he
      simp [ht]
    | false =>
      cases ha : s.agenda with
      | nil => simp [step_of_not_enabled hr he, agentsStep, ha, eq_comm]
      | cons m rest => simp [step_of_move hr he ha, agentMove_ne_fault]

/-- Settles O16: in each phase, the pin of the transfer that does not happen and the fault of the wait. -/
theorem waitsAreStuckStates : Obligations.WaitsAreStuckStates := by
  intro s f
  rw [step_eq_fault_iff]
  cases hp : s.phase with
  | idle | stream j mode | bound | resp st d =>
    simp [transferEnabled, waitFault, hp]

/-- Settles O15: the step is the response transfer, whose fields are read off. -/
theorem responseTransferReturnsToIdle : Obligations.ResponseTransferReturnsToIdle :=
  fun _ _ _ hr hp hready => ⟨_, step_of_response hr hp hready, rfl, rfl, rfl, rfl, rfl, hr, rfl, rfl, rfl, rfl, rfl⟩

/-! ### The remap (R65) -/

/-- Every position is mapped or unmapped, so two buffers that agree on both kinds are equal. -/
theorem buf_ext_mapped (c : Config) {a b : Buf} (mapped : ∀ i, a[c.M i] = b[c.M i])
    (unmapped : ∀ j : Fin 24, c.Unmapped j → a[j] = b[j]) : a = b := by
  have entry (j : Fin 24) : a[j] = b[j] := by
    by_cases hj : c.Unmapped j
    · exact unmapped j hj
    · obtain ⟨i, rfl⟩ : ∃ i, c.M i = j := by simpa [Config.Unmapped] using hj
      exact mapped i
  exact Vector.ext fun j hj => entry ⟨j, hj⟩

/-- Any list that names every frame entry gives the remap, whatever its order and however often it names one. -/
theorem remapAlong_eq_remap (horder : ∀ i, i ∈ order) (frame : Frame) (buf : Buf) :
    remapAlong c frame order buf = remap c frame buf := by
  refine buf_ext_mapped c (fun i => ?_) fun j hj => ?_
  · rw [remapAlong_get_of_mem c frame order buf i (horder i), remap_get_mapped]
  · rw [remapAlong_get_of_unreached c frame order buf j fun i _ => hj i, remap_get_unmapped c frame buf hj]

/-- Settles O43: a permutation of the indices names every one of them. -/
theorem remapCopiesTheFrameInAnyOrder : Obligations.RemapCopiesTheFrameInAnyOrder :=
  fun c frame buf => ⟨remap_get_mapped c frame buf, fun _ => remap_get_unmapped c frame buf,
    fun _ hperm => remapAlong_eq_remap (fun i => hperm.mem_iff.mpr (List.mem_finRange i)) frame buf⟩

/-! ### RENDER (R68, R69, R70) -/

theorem exec_render_buf_mapped (h : exec .render s = .next t) (i : Fin 14) :
    t.buf[Config.chip.M i] = s.frame[i] := by
  rw [exec_render_buf h, remap_get_mapped]

theorem exec_render_buf_unmapped (h : exec .render s = .next t) (hj : Config.chip.Unmapped j) :
    t.buf[j] = s.buf[j] :=
  exec_keeps_unmapped_buf h (by simp) hj

/-- The word presented at position `j` of a corrected stream (R66). -/
theorem outPort_corr (c : Config) (s : State) (j : Fin 24) :
    outPort c { s with rst := false, phase := .stream j .corr } = some (.pixel (g4 c s.buf[j])) :=
  outPort_of_stream (mode := .corr) c rfl rfl

/-- Settles O29: the port presents `G4` of the remapped buffer, which holds the frame and the stale slots. -/
theorem renderRemapsAndStartsTheStream : Obligations.RenderRemapsAndStartsTheStream := by
  intro s
  have h := exec_render s
  refine ⟨_, h, exec_render_buf_mapped h, fun j => exec_render_buf_unmapped h,
    fun j => ⟨_, outPort_corr _ _ j, ?_, fun hj => ?_⟩, rfl, rfl, rfl, exec_sameOutside h⟩
  · rintro i rfl
    rw [exec_render_buf_mapped h]
  · rw [exec_render_buf_unmapped h hj]

/-- Settles O46: RENDER of a frame of one colour, over the buffer that FRAME_FILL left alone. -/
theorem renderOfAFilledFrame : Obligations.RenderOfAFilledFrame := by
  intro colour s t u hfill hrender
  obtain rfl := Host.Outcome.next.inj ((exec_frameFill colour s).symm.trans hfill)
  have mapped (i : Fin 14) : u.buf[Config.chip.M i] = colour := by
    rw [exec_render_buf_mapped hrender]
    simp
  refine ⟨fun i => ⟨mapped i, ?_, ?_⟩, fun j hj => ?_⟩
  · rw [outPort_corr, mapped]
  · rintro rfl
    rw [outPort_corr, mapped, g4_zero]
  · have unmapped : u.buf[j] = s.buf[j] := by simpa using exec_render_buf_unmapped hrender hj
    exact ⟨unmapped, by rw [outPort_corr, unmapped]⟩

/-! ### CLEAR and BUF_GET (R71, R72) -/

/-- Settles O30: the buffer is one colour repeated. -/
theorem clearFillsTheBufferAndStartsTheStream : Obligations.ClearFillsTheBufferAndStartsTheStream := by
  intro dat s
  have h := exec_clear dat s
  exact ⟨_, h, by simp, rfl, rfl, rfl, exec_sameOutside h⟩

/-- Settles O31: an index below 24 names the entry that is returned; another names none. -/
theorem bufGetReturnsOneEntryOrFails : Obligations.BufGetReturnsOneEntryOrFails := by
  refine ⟨fun w hop hrsv => decode_eq_ok_iff.mpr ⟨hrsv, hop, rfl, rfl⟩,
    fun idx => ⟨?_, fun s => ⟨fun j hj => ?_, fun hge => ?_⟩⟩⟩
  · simp [encode, packCommand, Instr.op, Instr.idx, Instr.dat]
  · have h := exec_bufGet_of_some ((bufIndex_eq_some idx j).mpr hj) s
    exact ⟨_, h, rfl, rfl, rfl, rfl, exec_sameOutside h⟩
  · exact failedWith_of_indexOutOfRange (exec_bufGet_of_none ((bufIndex_eq_none idx).mpr hge) s)

end Sys2Proof.Machine
end

section
/-! PROOFS. STATUS_GET: the status word bit by bit, and the command at its acceptance (spec 43_control.md R73). -/

namespace Sys2Proof.Machine

/-! ### The status word (R23, R73): there are four of them -/

theorem statusWord_bit_zero : ∀ (topology : Fin 2) (err : Bool), (statusWord topology err).getLsbD 0 = err := by
  decide

theorem statusWord_bit_one :
    ∀ (topology : Fin 2) (err : Bool), (statusWord topology err).getLsbD 1 = decide (topology = 1) := by
  decide

theorem statusWord_upper_bits :
    ∀ (topology : Fin 2) (err : Bool), (statusWord topology err).extractLsb' 2 30 = 0#30 := by
  decide

/-! ### STATUS_GET -/

theorem exec_statusGet (s : State) :
    exec .statusGet s = .next (s.respond .ok (statusWord Config.chip.topology s.err)) := rfl

/-- Settles O33: the response is the status word of the old `ERR`, and a response changes nothing but the phase. -/
theorem statusGetReturnsErrAndTopology : Obligations.StatusGetReturnsErrAndTopology := by
  refine ⟨fun w hop hrsv => decode_eq_ok_iff.mpr ⟨hrsv, hop, rfl, rfl⟩, by decide, fun s => ?_⟩
  have h := exec_statusGet s
  exact ⟨_, statusWord Config.chip.topology s.err, h, rfl, statusWord_bit_zero _ _, statusWord_bit_one _ _,
    statusWord_upper_bits _ _, rfl, rfl, rfl, exec_sameOutside h⟩

end Sys2Proof.Machine
end

section
/-! PROOFS. The two errors of a word: an index out of range only for a legal word, an illegal word before it (spec
60_exceptions.md R78, R81). -/

namespace Sys2Proof.Machine

variable {w : CmdWord}

/-- R78: a legal word of an indexed command whose index names no entry is a command that raises INDEX_OUT_OF_RANGE. -/
theorem decode_of_index_out_of_range (hrsv : rsvField w = 0)
    (hidx : (opField w = 0x3 ∨ opField w = 0x4) ∧ 14 ≤ (idxField w).toNat ∨ opField w = 0x7 ∧ 24 ≤ (idxField w).toNat) :
    ∃ i, decode w = .ok i ∧ ∀ s, exec i s = .next (s.raiseError .indexOutOfRange) := by
  obtain ⟨hset | hget, hge⟩ | ⟨hbuf, hge⟩ := hidx
  · exact ⟨.frameSet (idxField w) (datField w), decode_eq_ok_iff.mpr ⟨hrsv, hset, rfl, rfl⟩,
      exec_frameSet_of_none ((frameIndex_eq_none _).mpr hge)⟩
  · exact ⟨.frameGet (idxField w), decode_eq_ok_iff.mpr ⟨hrsv, hget, rfl, rfl⟩,
      exec_frameGet_of_none ((frameIndex_eq_none _).mpr hge)⟩
  · exact ⟨.bufGet (idxField w), decode_eq_ok_iff.mpr ⟨hrsv, hbuf, rfl, rfl⟩,
      exec_bufGet_of_none ((bufIndex_eq_none _).mpr hge)⟩

/-- Settles O12: an illegal word fails as R74 says, and a legal one runs its command, which looks at the index. -/
theorem illegalCommandWinsOverIndexOutOfRange : Obligations.IllegalCommandWinsOverIndexOutOfRange := by
  refine fun s w hr hp hc => ⟨fun hillegal => ?_, fun hrsv hidx => ?_⟩
  · exact illegalWordIsAnsweredAndDoesNothingElse s w hr hp hc hillegal.symm
  · obtain ⟨i, hd, hraise⟩ := decode_of_index_out_of_range hrsv hidx
    rw [step_of_command hr hp hc hd]
    exact failedWith_of_indexOutOfRange (hraise _)

end Sys2Proof.Machine
end

section
/-! PROOFS. Reset and the hazards between commands: what a reset edge leaves to the agents outside, the invariant at reset,
and the stale slots that a CLEAR leaves to a later RENDER (spec 70_reset_and_hazards.md R91 to R96). -/

namespace Sys2Proof.Machine

variable {s t u : State} {j : Fin 24}

/-! ### Reset (R91, R93) -/

/-- A reset edge reaches the block and uses up `rst`; the rest of the pins, the agenda and the history stay (log 8). -/
theorem resetEdge_sameOutside (s : State) : SameOutside { s with rst := false } (resetEdge s) :=
  ⟨rfl, rfl, rfl, rfl, rfl, rfl, rfl⟩

/-- Settles O23: with `rst = 1` the step is the reset edge. -/
theorem resetEdgeKeepsWhatTheAgentsHold : Obligations.ResetEdgeKeepsWhatTheAgentsHold := by
  intro s t hr h
  obtain rfl := Host.Outcome.next.inj ((step_of_rst hr).symm.trans h)
  exact resetEdge_sameOutside s

/-- Settles O53: the block is idle right after reset. -/
theorem resetMeetsTheInvariant : Obligations.ResetMeetsTheInvariant :=
  inv_of_idle rfl

/-! ### CLEAR before RENDER (R95, R96) -/

/-- RENDER keeps the colour that a CLEAR before it left at an unmapped position, whatever frame it draws. -/
theorem exec_clear_render_buf_unmapped {colour : Word} {frame : Frame} (hclear : exec (.clear colour) s = .next t)
    (hrender : exec .render { t with frame := frame, phase := .idle } = .next u) (hj : Config.chip.Unmapped j) :
    u.buf[j] = colour := by
  rw [exec_render_buf_unmapped hrender hj]
  simp [exec_clear_buf hclear]

/-- Settles O47: a stale slot holds the colour of the CLEAR, and the laws of `G4` say what is sent for it. -/
theorem clearDecidesTheStaleSlotsOfALaterRender : Obligations.ClearDecidesTheStaleSlotsOfALaterRender := by
  intro colour frame s t u hclear hrender j hj
  have sent : streamWord Config.chip .corr u.buf[j] = g4 Config.chip colour :=
    congrArg (g4 Config.chip) (exec_clear_render_buf_unmapped hclear hrender hj)
  refine ⟨sent, ?_, fun hends => ?_⟩
  · rintro rfl
    rw [sent, g4_zero]
  · rw [sent, g4_of_lanes_at_ends Config.chip hends]

end Sys2Proof.Machine
end
